-- ==== Sys2Proof/Word.lean ====
section
/-! DEFINITION. The words of the PDR bridge block and their plainest arithmetic (spec/00_scope.md R7,
spec/30_encoding.md R90). Every value is unsigned; there is no addition and no signed quantity. -/

namespace Sys2Proof

/-- A byte (R7): 8 bits, bit 0 the least significant. -/
abbrev Byte := BitVec 8

/-- The 16-bit button field (R12). -/
abbrev Half := BitVec 16

/-- `zext_16` of a byte (R7, R90). -/
def zext16 (b : Byte) : Half := b.setWidth 16

/-- The low byte of a 16-bit value, `v[7:0]` (R90). -/
def lowByte (v : Half) : Byte := v.extractLsb' 0 8

/-- The high byte of a 16-bit value, `v[15:8]` (R90). -/
def highByte (v : Half) : Byte := v.extractLsb' 8 8

/-- How many bits of a byte are 1, for the constraints of R5 ("exactly one bit set"). -/
def bitCount (b : Byte) : Nat := ((List.range 8).filter b.getLsbD).length

/-- Five bytes in index order: an address, a payload, a TelemetryFrame (R14, R16, R42 item 3). -/
structure Bytes5 where
  b0 : Byte
  b1 : Byte
  b2 : Byte
  b3 : Byte
  b4 : Byte
deriving DecidableEq, Repr, Inhabited

/-- The five bytes as a sequence, index 0 first (R42 item 3). -/
def Bytes5.toList (p : Bytes5) : List Byte := [p.b0, p.b1, p.b2, p.b3, p.b4]

/-- Five bytes from a sequence of exactly five. -/
def Bytes5.ofList? : List Byte → Option Bytes5
  | [b0, b1, b2, b3, b4] => some ⟨b0, b1, b2, b3, b4⟩
  | _ => none

end Sys2Proof
end

