-- ==== Sys2Proof/Config.lean ====
section
/-! DEFINITION. The configuration record P of spec/00_scope.md R5, its constraints, the constants the source prints,
the suggested default set P_GK, and the free values (draws, R7) as constants without a body. -/

namespace Sys2Proof

/-- The operating role (R5 `ROLE`): fixed for the lifetime of the block. -/
inductive Role where
  | tx
  | rx
deriving DecidableEq, Repr

/-- The names of the time parameters (R5). `WAIT(T)` takes one of them (R101). -/
inductive TimeParam where
  | tSettle
  | tPadSettle
  | tInitSettle
  | tTxPre
  | tCePulse
  | tTxPost
  | tRxListen
  | tCycle
  | tFaultHold
deriving DecidableEq, Repr

/-- Least durations of the waits, in microseconds (R5, R284). No rule of the machine reads one. -/
structure Durations where
  settle     : Nat
  padSettle  : Nat
  initSettle : Nat
  txPre      : Nat
  cePulse    : Nat
  txPost     : Nat
  rxListen   : Nat
  cycle      : Nat
  faultHold  : Nat
deriving DecidableEq, Repr

/-- The configuration record P (R5, kind OPEN): every parameter the source names without a number.

R5 puts three invariants on the pair of peers and not on one block, and asks a model to carry them as comments on `P`:
- "transmit and receive addresses must match between communicating peers" (`rxAddr`, `txAddr`);
- "payload width must be identical on both ends" (`valRxPw`, `payloadWidth`);
- "channel must be identical on both ends" (`valRfCh`), and R5's table says the same of `valRfSetup`.
The peer is no part of the model, so no rule reads them. -/
structure Config where
  role             : Role
  wOpcode          : Byte
  radioNop         : Byte
  regConfig        : Byte
  regEnAa          : Byte
  regEnRxaddr      : Byte
  regSetupAw       : Byte
  regSetupRetr     : Byte
  regRfCh          : Byte
  regRfSetup       : Byte
  regStatus        : Byte
  regRxAddr        : Byte
  regTxAddr        : Byte
  regRxPw          : Byte
  regFifoStatus    : Byte
  regTxPayload     : Byte
  regRxPayload     : Byte
  cmdFlushTx       : Byte
  statusIrqMask    : Byte
  statusMaxRtMask  : Byte
  /-- Which of the two other bits of `STATUS_IRQ_MASK` is `f2`: the upper one, or the lower. The source does not
  give the order (R50), so it is a parameter. DESIGN CHOICE (log 7). -/
  f2IsUpper        : Bool
  valEnAa          : Byte
  /-- "Must encode 15 retries at ~750 µs" (R5); R79 gives no encoding (log 33). -/
  valSetupRetr     : Byte
  /-- "Must enable exactly one pipe" (R5); R79 gives no encoding (log 33). -/
  valEnRxaddr      : Byte
  /-- "Must encode a width of 5 bytes" (R5); R79 gives no encoding (log 33). -/
  valSetupAw       : Byte
  /-- Equal on both peers (R5). -/
  valRfCh          : Byte
  /-- Equal on both peers (R5). -/
  valRfSetup       : Byte
  /-- Equal on both peers (R5). -/
  rxAddr           : Bytes5
  /-- Equal on both peers (R5). -/
  txAddr           : Bytes5
  /-- "Must encode a width of 5 bytes" (R5); R79 gives no encoding (log 33). Identical on both ends. -/
  valRxPw          : Byte
  configBase       : Byte
  pwrUpMask        : Byte
  primRxMask       : Byte
  /-- Never compared (R182); held because R5 lists it. -/
  padReadySentinel : Byte
  /-- Electrical level of an asserted handshake line (R24, D4). -/
  attActiveLevel   : Bool
  /-- Electrical level of an asserted fault indicator (R5, D4). -/
  faultActiveLevel : Bool
  nMax             : Nat
  durations        : Durations
deriving DecidableEq, Repr

/-! ## Constants the source prints (R5, kind K) -/

/-- `PAD_CMD_POLL` (R5). -/
def padCmdPoll : Byte := 0x01#8
/-- `PAD_CMD_READY` (R5). -/
def padCmdReady : Byte := 0x42#8
/-- `PAD_CMD_FILL` (R5). -/
def padCmdFill : Byte := 0x00#8
/-- `PAD_CMD_NOP` (R5). -/
def padCmdNop : Byte := 0xFF#8
/-- `POLL_LEN` (R5). -/
def pollLen : Nat := 9
/-- `RD_OPCODE` (R5, R71): "read-opcode is zero". -/
def rdOpcode : Byte := 0x00#8
/-- `ADDR_WIDTH` (R5), bytes. -/
def addrWidth : Nat := 5
/-- `PAYLOAD_WIDTH` (R5), bytes. -/
def payloadWidth : Nat := 5
/-- `N_PIPES` (R5). -/
def nPipes : Nat := 1
/-- `RETRY_COUNT` (R5): the chip's own retries; the block keeps no counter (R163, R210). -/
def retryCount : Nat := 15
/-- `RETRY_DELAY` (R5), about 750 microseconds. -/
def retryDelayMicros : Nat := 750
/-- `AUTO_ACK` (R5): enabled. -/
def autoAck : Bool := true
/-- `TF_LEN` (R5), bytes. -/
def tfLen : Nat := 5
/-- `TF_RESERVED` (R5, R84). -/
def tfReserved : Byte := 0x00#8

/-- The least duration of a wait (R5, R101), in microseconds. -/
def Config.duration (P : Config) : TimeParam → Nat
  | .tSettle => P.durations.settle
  | .tPadSettle => P.durations.padSettle
  | .tInitSettle => P.durations.initSettle
  | .tTxPre => P.durations.txPre
  | .tCePulse => P.durations.cePulse
  | .tTxPost => P.durations.txPost
  | .tRxListen => P.durations.rxListen
  | .tCycle => P.durations.cycle
  | .tFaultHold => P.durations.faultHold

/-! ## Constraints of R5 -/

/-- The `REG_*` group of R5: the register map. The two payload codes are command codes and not map addresses (R121). -/
def Config.mapRegisters (P : Config) : List Byte :=
  [P.regConfig, P.regEnAa, P.regEnRxaddr, P.regSetupAw, P.regSetupRetr, P.regRfCh, P.regRfSetup, P.regStatus,
    P.regRxAddr, P.regTxAddr, P.regRxPw, P.regFifoStatus]

/-- R5: the map addresses are distinct, the opcode has exactly one bit and no map address has it. -/
abbrev Config.mapWf (P : Config) : Prop :=
  bitCount P.wOpcode = 1 ∧ P.mapRegisters.Nodup ∧ ∀ a ∈ P.mapRegisters, a &&& P.wOpcode = 0#8

/-- R5: three interrupt bits, one of them the max-retries bit. -/
abbrev Config.statusWf (P : Config) : Prop :=
  bitCount P.statusIrqMask = 3 ∧ bitCount P.statusMaxRtMask = 1 ∧
    P.statusMaxRtMask &&& P.statusIrqMask = P.statusMaxRtMask

/-- R5: one power-up bit, one role bit, different, and neither in the base value. -/
abbrev Config.configRegWf (P : Config) : Prop :=
  bitCount P.pwrUpMask = 1 ∧ bitCount P.primRxMask = 1 ∧ P.pwrUpMask ≠ P.primRxMask ∧
    P.configBase &&& (P.pwrUpMask ||| P.primRxMask) = 0#8

/-- The three command bytes, in the order R48 tests them. -/
def Config.commandBytes (P : Config) : List Byte :=
  [P.cmdFlushTx, P.wOpcode ||| P.regTxPayload, rdOpcode ||| P.regRxPayload]

/-- DEDUCED (log 26): the three commands are the chip's commands (R5), so none of them is the first byte of a write
or a read of a map register, and no two are the same. -/
abbrev Config.commandsWf (P : Config) : Prop :=
  P.commandBytes.Nodup ∧ ∀ a ∈ P.mapRegisters, a ∉ P.commandBytes ∧ (P.wOpcode ||| a) ∉ P.commandBytes

/-- R101: only `T_FAULT_HOLD` may be zero. R151: `T_INIT_SETTLE` is at least 10 ms. -/
abbrev Config.timesWf (P : Config) : Prop :=
  0 < P.durations.settle ∧ 0 < P.durations.padSettle ∧ 10000 ≤ P.durations.initSettle ∧ 0 < P.durations.txPre ∧
    0 < P.durations.cePulse ∧ 0 < P.durations.txPost ∧ 0 < P.durations.rxListen ∧ 0 < P.durations.cycle

/-- The constraints R5 puts on the configuration record in terms of its bytes and numbers, and log 26. Not here: the
four "must encode" and "must enable" constraints, whose encodings the source does not give (R79, log 33), and the
invariants on the pair of peers, which stand as comments on `Config` (R5). -/
abbrev Config.wf (P : Config) : Prop :=
  P.mapWf ∧ P.statusWf ∧ P.configRegWf ∧ P.commandsWf ∧ P.timesWf ∧ 5 ≤ P.nMax

/-- The suggested defaults P_GK (R5, 93 GK2) with the example values of spec/95_test_vectors.md section 0 for the
parameters that have no default. PRESUMED (log 1); the durations and the sentinel are DESIGN CHOICE (log 1, log 23). -/
def Config.pGK : Config where
  role := .tx
  wOpcode := 0x20#8
  radioNop := 0xFF#8
  regConfig := 0x00#8
  regEnAa := 0x01#8
  regEnRxaddr := 0x02#8
  regSetupAw := 0x03#8
  regSetupRetr := 0x04#8
  regRfCh := 0x05#8
  regRfSetup := 0x06#8
  regStatus := 0x07#8
  regRxAddr := 0x0A#8
  regTxAddr := 0x10#8
  regRxPw := 0x11#8
  regFifoStatus := 0x17#8
  regTxPayload := 0xA0#8
  regRxPayload := 0x61#8
  cmdFlushTx := 0xE1#8
  statusIrqMask := 0x70#8
  statusMaxRtMask := 0x10#8
  f2IsUpper := false
  valEnAa := 0x01#8
  valSetupRetr := 0x2F#8
  valEnRxaddr := 0x01#8
  valSetupAw := 0x03#8
  valRfCh := 0x4C#8
  valRfSetup := 0x07#8
  rxAddr := ⟨0xE7#8, 0xE7#8, 0xE7#8, 0xE7#8, 0xE7#8⟩
  txAddr := ⟨0xE7#8, 0xE7#8, 0xE7#8, 0xE7#8, 0xE7#8⟩
  valRxPw := 0x05#8
  configBase := 0x0C#8
  pwrUpMask := 0x02#8
  primRxMask := 0x01#8
  padReadySentinel := 0x00#8
  attActiveLevel := false
  faultActiveLevel := true
  nMax := 5
  durations := ⟨10, 10, 10000, 10, 10, 10, 10, 10000, 0⟩

/-! ## Draws (R7): values the environment chooses, under no law -/

/-- One thing RADIO may do by itself between two events of the block (R53, R54). Which of `f2`, `f3` it sets is a
draw as well ("flag f2 (or f3)", "one of f2, f3"). -/
inductive EnvAction where
  /-- R53: the pending attempt is acknowledged; the flag set is `f2` if `setsF2`, else `f3`. -/
  | acknowledged (setsF2 : Bool)
  /-- R53: the pending attempt exceeds its retries. -/
  | maxRetries
  /-- R54: a payload arrives while listening. -/
  | arrived (payload : Bytes5) (setsF2 : Bool)
deriving DecidableEq, Repr

/-- A drawn RADIO device state (R47, R55), without the register map. -/
structure RadioDraw where
  maxRt   : Bool
  f2      : Bool
  f3      : Bool
  txq     : List Bytes5
  rxq     : List Bytes5
  pending : Bool
deriving DecidableEq, Repr, Inhabited

/-- The n-th byte TRANSPORT returns where nothing else fixes it (R100, R48 to R52, R56). Free value (log 3). -/
opaque Config.drawByte : Nat → Byte

/-- What RADIO does in the n-th gap between two events (R53, R54). Free value (log 4). -/
opaque Config.drawActions : Nat → List EnvAction

/-- The n-th drawn device state (R47, R53, R55). Free value (log 5, log 6). -/
opaque Config.drawRadio : Nat → RadioDraw

/-- The controller's position after an exchange past the ninth (R56 gives 0 to 9). Free value (log 12). -/
opaque Config.drawPosition : Nat → Nat

end Sys2Proof
end

