-- ==== Sys2Proof/Syntax.lean ====
section
/-! DEFINITION. The instructions of the PDR bridge block: one constructor per row of spec/opcode_table.json
(spec/00_scope.md R6, spec/30_encoding.md R72 to R87), and the requests they are encoded in. -/

namespace Sys2Proof

/-- The direction and data of `RADIO_XACT(first, dir, arg)` (R120): `dir = OUT` with a byte sequence, or `dir = IN`
with a length. All data bytes are written or all are read (R76). -/
inductive XactArg where
  | out (data : List Byte)
  | inp (n : Nat)
deriving DecidableEq, Repr

/-- The destinations of the six controller exchanges that send 0xFF, in the order of positions 3 to 8 (R80). -/
inductive PadField where
  | buttonsHigh
  | buttonsLow
  | rightX
  | rightY
  | leftX
  | leftY
deriving DecidableEq, Repr

/-- The instructions: one constructor per row of spec/opcode_table.json. -/
inductive Instr where
  /-- REG_READ (R122). -/
  | regRead (a : Byte) (n : Nat)
  /-- REG_WRITE (R121). -/
  | regWrite (a : Byte) (data : List Byte)
  /-- STATUS_RESET (R123). -/
  | statusReset
  /-- STATUS_READ (R124). -/
  | statusRead
  /-- INIT (R140). -/
  | init
  /-- FLUSH_TX (R160). -/
  | flushTx
  /-- W_TX_PAYLOAD (R161): a sequence, since a length other than 5 is a request the block refuses. -/
  | wTxPayload (p : List Byte)
  /-- TRANSMIT (R162). -/
  | transmit (p : List Byte)
  /-- R_RX_PAYLOAD (R165). -/
  | rRxPayload
  /-- RECEIVE (R166). -/
  | receive
  /-- POLL (R180). -/
  | poll
  /-- PACK (R201). -/
  | pack
  /-- FAULTCHECK (R203, R204). -/
  | faultcheck
  /-- WAIT_CYCLE (R206). -/
  | waitCycle
  /-- CYCLE (R207). -/
  | cycle
  /-- OPSEL_RESERVED: the reserved code 0b1111 (R87, R241). -/
  | opselReserved
  /-- RUN (R208). -/
  | run
  /-- RADIO_XACT (R120). -/
  | radioXact (first : Byte) (arg : XactArg)
  /-- XFER (R100). -/
  | xfer (tx : Byte)
  /-- WAIT (R101). -/
  | wait (t : TimeParam)
  /-- CSN_ENABLE (R102). -/
  | csnEnable
  /-- CSN_DISABLE (R103). -/
  | csnDisable
  /-- CE_HIGH (R104). -/
  | ceHigh
  /-- CE_LOW (R105). -/
  | ceLow
  /-- ATT_ASSERT (R106). -/
  | attAssert
  /-- ATT_RELEASE (R107). -/
  | attRelease
  /-- FAULT_ON (R108). -/
  | faultOn
  /-- FAULT_OFF (R109). -/
  | faultOff
  /-- RADIO.R_REGISTER (R73): a register read as it stands on the wire. -/
  | radioRRegister (a : Byte) (n : Nat)
  /-- RADIO.W_REGISTER (R72): a register write as it stands on the wire. -/
  | radioWRegister (a : Byte) (data : List Byte)
  /-- RADIO.FLUSH_TX (R74). -/
  | radioFlushTx
  /-- RADIO.W_TX_PAYLOAD (R74): exactly five payload bytes. -/
  | radioWTxPayload (p : Bytes5)
  /-- RADIO.R_RX_PAYLOAD (R74). -/
  | radioRRxPayload
  /-- PAD.POLL_CMD (R80): the exchange at position 0. -/
  | padPollCmd
  /-- PAD.READY_CMD (R80): the exchange at position 1. -/
  | padReadyCmd
  /-- PAD.FILL (R80): the exchange at position 2. -/
  | padFill
  /-- PAD.NOP (R80): the exchange at one of positions 3 to 8; the position decides the destination (R89). -/
  | padNop (f : PadField)
  /-- TFRAME (R84): the TelemetryFrame as it stands on the wire, fields l, h, x, y. -/
  | tframe (l h x y : Byte)
  /-- STATUS_BYTE (R77): a status byte as the block uses it. -/
  | statusByte (s : Byte)
deriving DecidableEq, Repr

/-- The wire formats of R70. A byte means nothing without its format: in PAD_XCHG the position decides (R89), and
the same byte is a radio command, a controller command, a status byte or an OPSEL code. -/
inductive Format where
  | opsel
  | radioXact
  | padXchg (position : Nat)
  | tframe
  | status
deriving DecidableEq, Repr

/-- A request: the bytes of one instruction in one of the formats. The bytes of a radio transaction are those of one
`csn` bracket, so that its end is known without a length field (R75). -/
structure Request where
  format : Format
  bytes  : List Byte
deriving DecidableEq, Repr

/-- The five kinds of radio transaction (R48, R89). -/
inductive RadioCmd where
  | flush
  | payloadWrite
  | payloadRead
  | regWrite (a : Byte)
  | regRead (a : Byte)
deriving DecidableEq, Repr

/-- Why a request's bytes are no request (log 14). -/
inductive DecodeError where
  /-- No byte at all. -/
  | emptyRequest
  /-- An OPSEL code is four bits (R87); the upper four bits of its byte must be 0. -/
  | opselHighBits
  /-- The wrong number of operand bytes for the OPSEL code. -/
  | operandCount
  /-- A radio transaction of the wrong length for its form (R72 to R74). -/
  | radioLength
  /-- Not one of positions 0 to 8, or not exactly one byte (R80). -/
  | padPosition
  /-- A byte the block never sends at this position (R80, R81). -/
  | padByte
  /-- Not five bytes (R84). -/
  | tframeLength
  /-- Offset 4 of a TFRAME is "reserved, always 0x00" (R84, R85). -/
  | tframeReserved
  /-- Not one byte (R77). -/
  | statusLength
deriving DecidableEq, Repr

end Sys2Proof
end

