-- ==== Sys2Proof/WellFormed.lean ====
section
/-! DEFINITION. Which operands the spec gives each instruction (spec/30_encoding.md R72 to R74, spec/41_radio_register.md
R120 to R122, spec/43_radio_txrx.md R161, R162). An ill-formed instruction is refused by its meaning, by name. -/

namespace Sys2Proof

/-- The address guard of REG_WRITE and REG_READ (R121, R122, 90_conflicts C12): no address with the opcode bit, but
for the one payload code `payloadCode`, which is a command code and not a map address. -/
def addressAllowed (P : Config) (payloadCode a : Byte) : Bool :=
  a &&& P.wOpcode == 0#8 || a == payloadCode

/-- How many data bytes an argument of RADIO_XACT carries (R120, `n`). -/
def XactArg.len : XactArg → Nat
  | .out data => data.length
  | .inp n => n

/-- The operands the spec gives the instruction. -/
def Instr.wf (P : Config) : Instr → Bool
  | .regRead a n => addressAllowed P P.regRxPayload a && n ≤ P.nMax
  | .regWrite a data => addressAllowed P P.regTxPayload a && data.length ≤ P.nMax
  | .statusReset => true
  | .statusRead => true
  | .init => true
  | .flushTx => true
  | .wTxPayload p => p.length = payloadWidth
  | .transmit p => p.length = payloadWidth
  | .rRxPayload => true
  | .receive => true
  | .poll => true
  | .pack => true
  | .faultcheck => true
  | .waitCycle => true
  | .cycle => true
  | .opselReserved => true
  | .run => true
  | .radioXact _ arg => arg.len ≤ P.nMax
  | .xfer _ => true
  | .wait _ => true
  | .csnEnable => true
  | .csnDisable => true
  | .ceHigh => true
  | .ceLow => true
  | .attAssert => true
  | .attRelease => true
  | .faultOn => true
  | .faultOff => true
  | .radioRRegister a n =>
    a &&& P.wOpcode == 0#8 && !(P.commandBytes.contains a) && 1 ≤ n && n ≤ P.nMax
  | .radioWRegister a data =>
    a &&& P.wOpcode == 0#8 && !(P.commandBytes.contains (P.wOpcode ||| a)) && 1 ≤ data.length
      && data.length ≤ P.nMax
  | .radioFlushTx => true
  | .radioWTxPayload _ => true
  | .radioRRxPayload => true
  | .padPollCmd => true
  | .padReadyCmd => true
  | .padFill => true
  | .padNop _ => true
  | .tframe _ _ _ _ => true
  | .statusByte _ => true

end Sys2Proof
end

