-- ==== Sys2Proof/Decode.lean ====
section
/-! DEFINITION. The decoder and the encoder (spec/30_encoding.md R70 to R89, spec/opcode_table.json). Total on any
bytes; what is no instruction is rejected by name. -/

namespace Sys2Proof

/-- The first byte of a register write (R71, R72): `W_OPCODE | a`. -/
def writeFirst (P : Config) (a : Byte) : Byte := P.wOpcode ||| a

/-- The first byte of a register read (R71, R73): `RD_OPCODE | a`. -/
def readFirst (a : Byte) : Byte := rdOpcode ||| a

/-- The kind of a radio transaction by its first byte, in the order of R48 and R89. -/
def classify (P : Config) (c : Byte) : RadioCmd :=
  if c = P.cmdFlushTx then .flush
  else if c = writeFirst P P.regTxPayload then .payloadWrite
  else if c = readFirst P.regRxPayload then .payloadRead
  else if c &&& P.wOpcode ≠ 0#8 then .regWrite (c &&& ~~~P.wOpcode)
  else .regRead c

/-- The widths of R41, in data bytes, of the registers the register primitive transfers. `REG_FIFO_STATUS` has none
("not used"), and the two payload codes are commands, not map addresses (log 8). -/
def regWidth (P : Config) (a : Byte) : Option Nat :=
  if a = P.regRxAddr ∨ a = P.regTxAddr then some addrWidth
  else if a ∈ [P.regEnAa, P.regSetupRetr, P.regEnRxaddr, P.regSetupAw, P.regRfCh, P.regRfSetup, P.regRxPw,
      P.regConfig, P.regStatus] then some 1
  else none

/-- The position of a data field inside the 9-byte exchange (R80). -/
def padFieldPosition : PadField → Nat
  | .buttonsHigh => 3
  | .buttonsLow => 4
  | .rightX => 5
  | .rightY => 6
  | .leftX => 7
  | .leftY => 8

/-- The byte the block sends at position k of a poll (R80): it does not depend on anything received (R81). -/
def padSent : Nat → Byte
  | 0 => padCmdPoll
  | 1 => padCmdReady
  | 2 => padCmdFill
  | _ => padCmdNop

/-! ## The decoder -/

/-- An OPSEL code that takes no operand. -/
def noOperands (i : Instr) : List Byte → Except DecodeError Instr
  | [] => .ok i
  | _ :: _ => .error .operandCount

/-- R87: the 4-bit operation-select code with its operand bytes. The code is the first byte; the layout of the operand
bytes (address, then count or data; payload bytes in index order) is DESIGN CHOICE (log 14). R87 leaves the operands of
the reserved code blank and R241 speaks of the code alone, so 0b1111 is the reserved operation whatever bytes follow it.
DESIGN CHOICE (log 14). -/
def decodeOpsel : List Byte → Except DecodeError Instr
  | [] => .error .emptyRequest
  | code :: ops =>
    match code.toNat with
    | 0 => match ops with
      | [a, n] => .ok (.regRead a n.toNat)
      | _ => .error .operandCount
    | 1 => match ops with
      | a :: data => .ok (.regWrite a data)
      | [] => .error .operandCount
    | 2 => noOperands .statusReset ops
    | 3 => noOperands .statusRead ops
    | 4 => noOperands .init ops
    | 5 => noOperands .flushTx ops
    | 6 => .ok (.wTxPayload ops)
    | 7 => .ok (.transmit ops)
    | 8 => noOperands .rRxPayload ops
    | 9 => noOperands .receive ops
    | 10 => noOperands .poll ops
    | 11 => noOperands .pack ops
    | 12 => noOperands .faultcheck ops
    | 13 => noOperands .waitCycle ops
    | 14 => noOperands .cycle ops
    | 15 => .ok .opselReserved
    | _ => .error .opselHighBits

/-- R72 to R74, R89: the bytes sent in one `csn` bracket. The bytes sent after the first of a read are not looked at
(R51: "the `tx` bytes are ignored"). -/
def decodeRadio (P : Config) : List Byte → Except DecodeError Instr
  | [] => .error .emptyRequest
  | c :: data =>
    match classify P c with
    | .flush => match data with
      | [] => .ok .radioFlushTx
      | _ :: _ => .error .radioLength
    | .payloadWrite => match Bytes5.ofList? data with
      | some p => .ok (.radioWTxPayload p)
      | none => .error .radioLength
    | .payloadRead => if data.length = payloadWidth then .ok .radioRRxPayload else .error .radioLength
    | .regWrite a => match data with
      | [] => .error .radioLength
      | d :: ds => .ok (.radioWRegister a (d :: ds))
    | .regRead a => match data with
      | [] => .error .radioLength
      | _ :: ds => .ok (.radioRRegister a (ds.length + 1))

/-- The instruction of a position of the controller exchange (R80). -/
def padInstr : Nat → Option Instr
  | 0 => some .padPollCmd
  | 1 => some .padReadyCmd
  | 2 => some .padFill
  | 3 => some (.padNop .buttonsHigh)
  | 4 => some (.padNop .buttonsLow)
  | 5 => some (.padNop .rightX)
  | 6 => some (.padNop .rightY)
  | 7 => some (.padNop .leftX)
  | 8 => some (.padNop .leftY)
  | _ => none

/-- R80, R89: position decides meaning, and the byte must be the one the block sends there. -/
def decodePad (k : Nat) : List Byte → Except DecodeError Instr
  | [b] => match padInstr k with
    | some i => if b = padSent k then .ok i else .error .padByte
    | none => .error .padPosition
  | _ => .error .padPosition

/-- R84: the five bytes of a TelemetryFrame, offset 4 reserved. -/
def decodeTframe : List Byte → Except DecodeError Instr
  | [l, h, x, y, z] => if z = tfReserved then .ok (.tframe l h x y) else .error .tframeReserved
  | _ => .error .tframeLength

/-- R77: one status byte. -/
def decodeStatus : List Byte → Except DecodeError Instr
  | [s] => .ok (.statusByte s)
  | _ => .error .statusLength

/-- The decoder: the instruction a request stands for. -/
def decode (P : Config) (r : Request) : Except DecodeError Instr :=
  match r.format with
  | .opsel => decodeOpsel r.bytes
  | .radioXact => decodeRadio P r.bytes
  | .padXchg k => decodePad k r.bytes
  | .tframe => decodeTframe r.bytes
  | .status => decodeStatus r.bytes

/-! ## The encoder -/

/-- An OPSEL request (R87). -/
def opselRequest (code : Byte) (ops : List Byte) : Option Request := some ⟨.opsel, code :: ops⟩

/-- The request of an instruction; none for the operations the table gives no encoding (RUN, RADIO_XACT and the
micro-operations, R87), and for a REG_READ count that does not fit its operand byte (log 14). -/
def encode (P : Config) : Instr → Option Request
  | .regRead a n => if n < 256 then opselRequest 0x0#8 [a, BitVec.ofNat 8 n] else none
  | .regWrite a data => opselRequest 0x1#8 (a :: data)
  | .statusReset => opselRequest 0x2#8 []
  | .statusRead => opselRequest 0x3#8 []
  | .init => opselRequest 0x4#8 []
  | .flushTx => opselRequest 0x5#8 []
  | .wTxPayload p => opselRequest 0x6#8 p
  | .transmit p => opselRequest 0x7#8 p
  | .rRxPayload => opselRequest 0x8#8 []
  | .receive => opselRequest 0x9#8 []
  | .poll => opselRequest 0xA#8 []
  | .pack => opselRequest 0xB#8 []
  | .faultcheck => opselRequest 0xC#8 []
  | .waitCycle => opselRequest 0xD#8 []
  | .cycle => opselRequest 0xE#8 []
  | .opselReserved => opselRequest 0xF#8 []
  | .run => none
  | .radioXact _ _ => none
  | .xfer _ => none
  | .wait _ => none
  | .csnEnable => none
  | .csnDisable => none
  | .ceHigh => none
  | .ceLow => none
  | .attAssert => none
  | .attRelease => none
  | .faultOn => none
  | .faultOff => none
  | .radioRRegister a n => some ⟨.radioXact, readFirst a :: List.replicate n P.radioNop⟩
  | .radioWRegister a data => some ⟨.radioXact, writeFirst P a :: data⟩
  | .radioFlushTx => some ⟨.radioXact, [P.cmdFlushTx]⟩
  | .radioWTxPayload p => some ⟨.radioXact, writeFirst P P.regTxPayload :: p.toList⟩
  | .radioRRxPayload => some ⟨.radioXact, readFirst P.regRxPayload :: List.replicate payloadWidth P.radioNop⟩
  | .padPollCmd => some ⟨.padXchg 0, [padSent 0]⟩
  | .padReadyCmd => some ⟨.padXchg 1, [padSent 1]⟩
  | .padFill => some ⟨.padXchg 2, [padSent 2]⟩
  | .padNop f => some ⟨.padXchg (padFieldPosition f), [padSent (padFieldPosition f)]⟩
  | .tframe l h x y => some ⟨.tframe, [l, h, x, y, tfReserved]⟩
  | .statusByte s => some ⟨.status, [s]⟩

/-! ## Words of the opcode table -/

/-- How many operand bytes an OPSEL code is given when its word is read from the table: all zeros. -/
def opselOperandCount : Nat → Nat
  | 0 => 2
  | 1 => 2
  | 6 => 5
  | 7 => 5
  | _ => 0

/-- How many data bytes follow a radio first byte when its word is read from the table (R75): the width of the
register, and 1 where R41 gives none. -/
def radioDataCount (P : Config) (c : Byte) : Nat :=
  match classify P c with
  | .flush => 0
  | .payloadWrite => payloadWidth
  | .payloadRead => payloadWidth
  | .regWrite a => (regWidth P a).getD 1
  | .regRead a => (regWidth P a).getD 1

/-- The request a bare byte of the table stands for. The table has four one-byte formats whose patterns overlap, and
a bare byte carries no format, so the most exact pattern is tried first: the controller's bytes, which the source
prints; the OPSEL codes; the one status bit alone; and the radio's first bytes for all the rest. A bare 0xFF carries no
position either, and positions 3 to 8 all send it (R80, R89): it is read as position 3, the high button byte. DESIGN
CHOICE (log 15). -/
def byteRequest (P : Config) (b : Byte) : Request :=
  if b = padCmdFill then ⟨.padXchg 2, [b]⟩
  else if b = padCmdPoll then ⟨.padXchg 0, [b]⟩
  else if b = padCmdReady then ⟨.padXchg 1, [b]⟩
  else if b = padCmdNop then ⟨.padXchg 3, [b]⟩
  else if b.toNat < 16 then ⟨.opsel, b :: List.replicate (opselOperandCount b.toNat) 0#8⟩
  else if b = P.statusMaxRtMask then ⟨.status, [b]⟩
  else ⟨.radioXact, b :: List.replicate (radioDataCount P b) 0#8⟩

/-- The request a word of spec/opcode_table.json stands for: 40 bits are a TFRAME, byte 0 in bits 7 to 0; 4 bits are an
OPSEL code; 8 bits are a bare byte (log 15). -/
def tableRequest (P : Config) (nbits w : Nat) : Request :=
  if 8 < nbits then
    ⟨.tframe, [BitVec.ofNat 8 w, BitVec.ofNat 8 (w / 2 ^ 8), BitVec.ofNat 8 (w / 2 ^ 16), BitVec.ofNat 8 (w / 2 ^ 24),
      BitVec.ofNat 8 (w / 2 ^ 32)]⟩
  else if nbits < 8 then
    ⟨.opsel, BitVec.ofNat 8 w :: List.replicate (opselOperandCount (w % 256)) 0#8⟩
  else byteRequest P (BitVec.ofNat 8 w)

/-- The instruction the decoder reads from a word of spec/opcode_table.json, under the default set P_GK, for which
alone the table's radio patterns hold. -/
def decodeTableWord (nbits w : Nat) : Option Instr :=
  match decode Config.pGK (tableRequest Config.pGK nbits w) with
  | .ok i => some i
  | .error _ => none

end Sys2Proof
end

