-- ==== Sys2Proof/Machine/State.lean ====
section
/-! DEFINITION. The state of the PDR bridge block as plain data (spec/10_state.md R10 to R30), with the device state of
RADIO and PAD (spec/20_memory.md R46, R56) and the model's own inputs and counters, and the state after reset. -/

namespace Sys2Proof.Machine

/-- The block's program counter (R20). -/
inductive Phase where
  | reset
  | init
  | polling
  | transmitting
  | faultcheck
deriving DecidableEq, Repr

/-- The block's view of the TransmissionOutcome (R18). -/
inductive TxOutcome where
  | none
  | notFailed
  | maxRt
deriving DecidableEq, Repr

/-- A transmission attempt in flight (R46 `air`). -/
inductive Air where
  | idle
  | pending
deriving DecidableEq, Repr

/-- Where SEQ is in the fixed program RUN (R21, R208, R262): before its first act, or inside `forever`. The model's own
field, since nothing may read `phase` to choose what to do (R208) (log 13). -/
inductive SeqPos where
  | start
  | loop
deriving DecidableEq, Repr

/-- The events of the trace (R7). Levels of `csn` and `ce` are electrical; `att` and `faultSig` are logical, true =
asserted. -/
inductive Event where
  | csn (level : Bool)
  | ce (level : Bool)
  | att (asserted : Bool)
  | faultSig (asserted : Bool)
  | xfer (tx rx : Byte)
  | wait (t : TimeParam)
deriving DecidableEq, Repr

/-- RADIO's register map (R40, R46): address and byte sequence, addresses strictly rising, no empty sequence. An
unlisted register holds no value (R47). The block has no other addressed storage. -/
abbrev Memory := List (Nat × List Byte)

/-- RADIO device state (R46), and what it has seen of the transaction in progress (R48, log 28). -/
structure Radio where
  rreg  : Memory
  maxRt : Bool
  f2    : Bool
  f3    : Bool
  txq   : List Bytes5
  rxq   : List Bytes5
  air   : Air
  /-- The bytes RADIO has seen since `Csn(0)`; empty while it is not selected. -/
  sent  : List Byte
  /-- Was an attempt pending at `Csn(0)` (R55, log 9). -/
  startedBusy : Bool
deriving DecidableEq, Repr

/-- The ControllerFrame (R11 to R13). Each register holds a value or, the spec's own state, no value (R10, log 2). -/
structure ControllerFrame where
  id      : Option Byte
  buttons : Option Half
  rx      : Option Byte
  ry      : Option Byte
  lx      : Option Byte
  ly      : Option Byte
deriving DecidableEq, Repr

/-- An input from outside the block: a request (R87, log 14) or the reset line (R4, log 22). -/
inductive Input where
  | request (r : Request)
  | reset
deriving DecidableEq, Repr

/-- The state. The first part is the block's (R10), the second the devices' (R46, R56), the third the model's own. -/
structure State where
  cf        : ControllerFrame
  tf        : Option Bytes5
  st        : Option Byte
  /-- Exists only for ROLE = RX (R16): in the transmitter role the field holds nothing, at reset and after any step
  (`storeRxp` alone fills it; `Safety.Inv` says so). -/
  rxp       : Option Bytes5
  outcome   : TxOutcome
  initDone  : Bool
  phase     : Phase
  csn       : Bool
  ce        : Bool
  att       : Bool
  faultSig  : Bool
  trace     : List Event
  radio     : Radio
  /-- PAD's position inside the current exchange (R56). -/
  padK      : Nat
  /-- The radio's interrupt line (R4): never read (R242). -/
  irqN      : Bool
  /-- The configuration record P (R5), fixed (log 1). -/
  cfg       : Config
  seq       : SeqPos
  /-- Pending inputs, oldest first. -/
  inputs    : List Input
  /-- The bytes the last value-returning operation handed to whoever requested it (log 21). -/
  ret       : List Byte
  /-- The bytes TRANSPORT will return, as far as they are given (log 3). -/
  answers   : List Byte
  byteDraws : Nat
  /-- What RADIO will do in the coming gaps, as far as it is given (log 4). -/
  plan      : List (List EnvAction)
  envDraws  : Nat
deriving DecidableEq, Repr

/-- The faults of the spec (R231, R233 to R235): the pins would be driven in a way that has no meaning on the real bus.
The hardware has no such check (D20), so each is safe: the model stops where the hardware would go on. -/
inductive Fault where
  /-- Code 2 (R233): radio and controller selected together. Raised by XFER, CSN_ENABLE, ATT_ASSERT. Safe. -/
  | busContention
  /-- Code 3 (R234): a byte sent with nothing selected. Raised by XFER. Safe. -/
  | noTarget
  /-- Code 4 (R235): a line driven against the bracket discipline. Raised by CSN_ENABLE, CSN_DISABLE, CE_HIGH, CE_LOW,
  ATT_ASSERT, ATT_RELEASE. Safe. -/
  | selectNesting
deriving DecidableEq, Repr

/-- The refusals of the spec (R231, R232, R236 to R241): the request is outside what the spec gives a meaning. Safe. -/
inductive Refusal where
  /-- The instruction has no meaning in the model yet. Raised by `exec`'s arm only. Safe. -/
  | notModelled (mnemonic : String)
  /-- Code 1 (R232): a data register that holds no value is read. Raised by PACK, CYCLE, FAULTCHECK. The
  spec's own stop (R10, R30, R201, D19). Safe. -/
  | uninitRead
  /-- Code 5 (R236): more than `N_MAX` data bytes, or a payload that is not 5 bytes. Raised by RADIO_XACT,
  W_TX_PAYLOAD, TRANSMIT and what is built on them. Safe. -/
  | lenRange
  /-- Code 6 (R237): a register address with the opcode bit. Raised by REG_WRITE, REG_READ and
  their two wire rows. Safe. -/
  | addrHasOpcodeBit
  /-- Code 7 (R238): INIT with `init_done = 1`. Raised by INIT, RUN. Safe. -/
  | reinit
  /-- Code 8 (R239): use before INIT. Raised by TRANSMIT, RECEIVE, FAULTCHECK, CYCLE and
  STATUS_BYTE, which is a FAULTCHECK. Safe. -/
  | notInitialised
  /-- Code 9 (R240): the other role's operation. Raised by TRANSMIT, RECEIVE, CYCLE, RUN. Safe. -/
  | roleMismatch
  /-- Code 10 (R241): the reserved OPSEL code. Raised by OPSEL_RESERVED. Safe. -/
  | unknownOp
  /-- The model's own (log 14): a request whose bytes are no request. Raised by the step. Safe. -/
  | badRequest (e : DecodeError)
deriving DecidableEq, Repr

/-- How an operation that does not end in *done* ends (R231). -/
inductive Stop where
  | fault (f : Fault)
  | refuse (r : Refusal)
deriving DecidableEq, Repr

/-- RADIO at reset (R47): no register holds a value, flags and queues are draws, nothing in flight (log 6). -/
def radioAtReset : Radio where
  rreg := []
  maxRt := (Config.drawRadio 0).maxRt
  f2 := (Config.drawRadio 0).f2
  f3 := (Config.drawRadio 0).f3
  txq := (Config.drawRadio 0).txq
  rxq := (Config.drawRadio 0).rxq
  air := .idle
  sent := []
  startedBusy := false

/-- The machine right after reset (R30, R260, R47). `cfg`, `padK`, `irqN` and the model's own fields: log 1, 12, 25, 3,
4, 13, 14, 21. -/
def State.reset : State where
  cf := ⟨none, none, none, none, none, none⟩
  tf := none
  st := none
  rxp := none
  outcome := .none
  initDone := false
  phase := .reset
  csn := true
  ce := false
  att := false
  faultSig := false
  trace := []
  radio := radioAtReset
  padK := 0
  irqN := true
  cfg := Config.pGK
  seq := .start
  inputs := []
  ret := []
  answers := []
  byteDraws := 0
  plan := []
  envDraws := 1

end Sys2Proof.Machine
end

