-- ==== Sys2Proof/Machine/Memory.lean ====
section
/-! DEFINITION. Reading and writing RADIO's register map (spec/20_memory.md R46, R47, R49) in its one canonical form. -/

namespace Sys2Proof.Machine

/-- The byte sequence a register holds; none for a register that holds no value (R46, R47). -/
def Memory.read : Memory → Nat → Option (List Byte)
  | [], _ => none
  | (b, d) :: rest, a => if b = a then some d else Memory.read rest a

/-- `rreg[a] <- data` (R49). Writing no bytes leaves the register without a value, so that the entry is removed. -/
def Memory.write : Memory → Nat → List Byte → Memory
  | [], a, data => if data = [] then [] else [(a, data)]
  | (b, d) :: rest, a, data =>
    if a < b then (if data = [] then (b, d) :: rest else (a, data) :: (b, d) :: rest)
    else if a = b then (if data = [] then rest else (a, data) :: rest)
    else (b, d) :: Memory.write rest a data

/-- Addresses from `lo` up, strictly rising, no empty sequence. -/
def Memory.wfFrom (lo : Nat) : Memory → Bool
  | [] => true
  | (b, d) :: rest => lo ≤ b && d != [] && Memory.wfFrom (b + 1) rest

/-- The canonical form, so that equal register maps are equal data. -/
def Memory.wf (m : Memory) : Bool := Memory.wfFrom 0 m

end Sys2Proof.Machine
end

