-- ==== Sys2Proof/Machine/Operands.lean ====
section
/-! DEFINITION. The operand forms: what a transaction sends, what INIT writes, how the controller's bytes become the
frame registers and how those become the TelemetryFrame (spec/30_encoding.md R71 to R84). -/

namespace Sys2Proof.Machine

/-- The bytes RADIO_XACT sends after the first (R120): the caller's data, or one `RADIO_NOP` for each byte to read. -/
def sentData (P : Config) : XactArg → List Byte
  | .out data => data
  | .inp n => List.replicate n P.radioNop

/-- What RADIO_XACT returns of the bytes exchanged after the first (R120): captured on IN, dropped on OUT. -/
def capturedData : XactArg → List Byte → List Byte
  | .out _, _ => []
  | .inp _, got => got

/-- `VAL_CONFIG(ROLE)` (R78). -/
def valConfig (P : Config) : Byte :=
  P.configBase ||| P.pwrUpMask ||| (match P.role with | .rx => P.primRxMask | .tx => 0#8)

/-- The ten writes of INIT in the source's order (R140 to R150): register and data. -/
def initWrites (P : Config) : List (Byte × List Byte) :=
  [(P.regEnAa, [P.valEnAa]),
    (P.regSetupRetr, [P.valSetupRetr]),
    (P.regEnRxaddr, [P.valEnRxaddr]),
    (P.regSetupAw, [P.valSetupAw]),
    (P.regRfCh, [P.valRfCh]),
    (P.regRfSetup, [P.valRfSetup]),
    (P.regRxAddr, P.rxAddr.toList),
    (P.regTxAddr, P.txAddr.toList),
    (P.regRxPw, [P.valRxPw]),
    (P.regConfig, [valConfig P])]

/-- The bytes POLL sends, positions 0 to 8 (R80, R180). -/
def pollSent : List Byte := (List.range pollLen).map padSent

/-- R82, R184: the first captured byte, inverted, is the upper byte; the second, inverted, the lower. -/
def buttonsOf (b1 b2 : Byte) : Half := (zext16 (~~~b1) <<< 8) ||| zext16 (~~~b2)

/-- R187: the ControllerFrame of the nine returned bytes. `r[0]` and `r[2]` do not appear (R183); `r[1]` is stored as
received (R182); the axes are complements (R185). -/
def decodeFrame (r : List Byte) : ControllerFrame where
  id := r[1]?
  buttons := match r[3]?, r[4]? with
    | some b1, some b2 => some (buttonsOf b1 b2)
    | _, _ => none
  rx := r[5]?.map (~~~ ·)
  ry := r[6]?.map (~~~ ·)
  lx := r[7]?.map (~~~ ·)
  ly := r[8]?.map (~~~ ·)

/-- R80: what the byte returned at position k decodes to, if it is captured: the identity as received (R182), every
button and axis byte as its complement (R83); positions 0 and 2 are ignored (R183). -/
def padDecoded (k : Nat) (r : Byte) : List Byte :=
  if k = 0 ∨ k = 2 then [] else if k = 1 then [r] else [~~~r]

/-- R84, R201: the TelemetryFrame of the buttons and the left axes. -/
def frameOf (buttons : Half) (lx ly : Byte) : Bytes5 := ⟨lowByte buttons, highByte buttons, lx, ly, tfReserved⟩

end Sys2Proof.Machine
end

