-- ==== Sys2Proof/Machine/Flags.lean ====
section
/-! DEFINITION. The flags: the status byte, what a status write clears, and the outcome the block reads from the byte
(spec/20_memory.md R50, spec/30_encoding.md R77, spec/45_bridge_loop.md R203). There are no arithmetic flags (R90). -/

namespace Sys2Proof.Machine

/-- The lowest set bit of a byte. -/
def lowestBit (b : Byte) : Byte := b &&& (0#8 - b)

/-- The two bits of `STATUS_IRQ_MASK` that are not the max-retries bit (R50). -/
def otherIrqBits (P : Config) : Byte := P.statusIrqMask &&& ~~~P.statusMaxRtMask

/-- The bit of `f2` in the status byte (R50, log 7). -/
def f2Mask (P : Config) : Byte :=
  if P.f2IsUpper then otherIrqBits P &&& ~~~(lowestBit (otherIrqBits P)) else lowestBit (otherIrqBits P)

/-- The bit of `f3` in the status byte (R50, log 7). -/
def f3Mask (P : Config) : Byte :=
  if P.f2IsUpper then lowestBit (otherIrqBits P) else otherIrqBits P &&& ~~~(lowestBit (otherIrqBits P))

/-- A mask if the flag is set. -/
def maskIf (b : Bool) (m : Byte) : Byte := if b then m else 0#8

/-- The byte a read of the status register returns (R50): the three flags in their bits, every other bit a draw. -/
def statusValue (P : Config) (r : Radio) (draw : Byte) : Byte :=
  (draw &&& ~~~P.statusIrqMask) ||| maskIf r.maxRt P.statusMaxRtMask ||| maskIf r.f2 (f2Mask P)
    ||| maskIf r.f3 (f3Mask P)

/-- A write of the status register (R50): each flag whose bit is set in the byte becomes 0, the others stay. -/
def clearFlags (P : Config) (v : Byte) (r : Radio) : Radio :=
  { r with
    maxRt := r.maxRt && v &&& P.statusMaxRtMask == 0#8
    f2 := r.f2 && v &&& f2Mask P == 0#8
    f3 := r.f3 && v &&& f3Mask P == 0#8 }

/-- The one bit the block tests (R77, R203): `s & STATUS_MAX_RT_MASK != 0`. -/
def maxRtSet (P : Config) (s : Byte) : Bool := s &&& P.statusMaxRtMask != 0#8

/-- The outcome of a sampled status byte (R18, R203). -/
def outcomeOf (P : Config) (s : Byte) : TxOutcome := if maxRtSet P s then .maxRt else .notFailed

end Sys2Proof.Machine
end

