-- ==== Sys2Proof/Machine/Radio.lean ====
section
/-! DEFINITION. The RADIO device (spec/20_memory.md R46 to R55): how it answers a byte, what a transaction does to it,
what the enable line does to it, and what it may do by itself. -/

namespace Sys2Proof.Machine

/-- "Leaves RADIO's state a draw" (R47, R55). A register that holds no value is read as a fresh draw each time (R51),
which admits more than any one drawn value (log 5). -/
def radioUnknown (n : Nat) (r : Radio) : Radio :=
  { r with
    rreg := []
    maxRt := (Config.drawRadio n).maxRt
    f2 := (Config.drawRadio n).f2
    f3 := (Config.drawRadio n).f3
    txq := (Config.drawRadio n).txq
    rxq := (Config.drawRadio n).rxq
    air := if (Config.drawRadio n).pending then .pending else .idle }

/-- The data byte RADIO returns in exchange `i` after the first of a read of register `a` (R50, R51), given the draw. R50
defines a status read of one byte only, R51 leaves the status register out and R43 says that the source is silent on
another length: in a longer one the flags stand in data byte 0 and every later byte is a draw. DESIGN CHOICE (log 35). -/
def registerByte (P : Config) (r : Radio) (a : Byte) (i : Nat) (draw : Byte) : Byte :=
  if a = P.regStatus then (if i = 0 then statusValue P r draw else draw)
  else if r.startedBusy then draw
  else match regWidth P a with
    | none => draw
    | some _ => match Memory.read r.rreg a.toNat with
      | some bytes => bytes[i]?.getD draw
      | none => draw

/-- The byte RADIO returns while selected (R48 to R52), given the draw. The byte of the first exchange, and those of
a write, are draws; so is every byte but the status of a transaction begun while an attempt was pending (R55). A payload
is read from the head of the queue as it is at that byte (log 29). R52 gives the bytes of a payload read of five only and
R43 says that the source is silent on another length: in one of another length the first five data bytes are those of the
head all the same and every later byte is a draw. DESIGN CHOICE (log 35). -/
def radioAnswer (P : Config) (r : Radio) (draw : Byte) : Byte :=
  match r.sent with
  | [] => draw
  | c :: data =>
    match classify P c with
    | .flush => draw
    | .payloadWrite => draw
    | .payloadRead =>
      if r.startedBusy then draw
      else match r.rxq with
        | p :: _ => p.toList[data.length]?.getD draw
        | [] => draw
    | .regWrite _ => draw
    | .regRead a => registerByte P r a data.length draw

/-- `Csn(0)` (R48): a transaction begins. -/
def radioSelect (r : Radio) : Radio := { r with sent := [], startedBusy := r.air == .pending }

/-- The two transactions FAULTCHECK performs (R55): the status read and the status reset. -/
def isFaultcheckXact (P : Config) (c : Byte) (data : List Byte) : Bool :=
  match classify P c with
  | .flush => false
  | .payloadWrite => false
  | .payloadRead => false
  | .regWrite a => a == P.regStatus && data == [P.statusIrqMask]
  | .regRead a => a == P.regStatus && data.length == 1

/-- A register write at its `Csn(1)` (R49, R50); a transfer whose length is not the register's width is a draw (R55). The
side effect of a CONFIG value with the power-up bit, that the chip starts (R44, R49, R150), is `chipStarted` of the
register the write leaves. -/
def registerWrite (P : Config) (n : Nat) (a : Byte) (data : List Byte) (r : Radio) : Radio :=
  if a = P.regStatus then
    match data with
    | [v] => clearFlags P v r
    | _ => radioUnknown n r
  else match regWidth P a with
    | some w =>
      if data.length = w then { r with rreg := Memory.write r.rreg a.toNat data } else radioUnknown n r
    | none => radioUnknown n r

/-- A register read at its `Csn(1)` (R50, R51): no device state changes, unless the length is not the register's width
(R55) or R41 has no such register (R48). A read of `REG_FIFO_STATUS` returns draws (R51). -/
def registerRead (P : Config) (n : Nat) (a : Byte) (data : List Byte) (r : Radio) : Radio :=
  match regWidth P a with
  | some w => if data.length = w then r else radioUnknown n r
  | none => if a = P.regFifoStatus ∧ data ≠ [] then r else radioUnknown n r

/-- The device-side effect of a whole transaction, first byte `c`, then `data` (R48 to R52, R55). -/
def transactionEffect (P : Config) (n : Nat) (c : Byte) (data : List Byte) (r : Radio) : Radio :=
  if r.startedBusy && !isFaultcheckXact P c data then radioUnknown n r
  else match classify P c with
    | .flush => if data = [] then { r with txq := [] } else radioUnknown n r
    | .payloadWrite => match Bytes5.ofList? data with
      | some p => { r with txq := r.txq ++ [p] }
      | none => radioUnknown n r
    | .payloadRead =>
      if data.length = payloadWidth then { r with rxq := r.rxq.tail } else radioUnknown n r
    | .regWrite a => registerWrite P n a data r
    | .regRead a => registerRead P n a data r

/-- `Csn(1)` (R48, R60): the transaction's effect is complete. A bracket without a byte is "anything else" (R55). -/
def radioDeselect (P : Config) (n : Nat) (r : Radio) : Radio :=
  { (match r.sent with
    | [] => radioUnknown n r
    | c :: data => transactionEffect P n c data r) with sent := [], startedBusy := false }

/-- Has the power-up bit started the chip (R44, R49, R150)? `rreg[REG_CONFIG]` is the whole record of it: a
write with the bit starts the chip, and after one without it the chip is not started. DEDUCED (log 32). -/
def chipStarted (P : Config) (r : Radio) : Bool :=
  match Memory.read r.rreg P.regConfig.toNat with
  | some [v] => v &&& P.pwrUpMask != 0#8
  | _ => false

/-- Does `rreg[REG_CONFIG]` select the transmitter role (R53, R78)? -/
def selectsTx (P : Config) (r : Radio) : Bool :=
  match Memory.read r.rreg P.regConfig.toNat with
  | some [v] => v &&& P.primRxMask == 0#8
  | _ => false

/-- Does `rreg[REG_CONFIG]` select the receiver role (R54, R78)? -/
def selectsRx (P : Config) (r : Radio) : Bool :=
  match Memory.read r.rreg P.regConfig.toNat with
  | some [v] => v &&& P.primRxMask != 0#8
  | _ => false

/-- May RADIO listen: the receiver role is selected, which is all R54 asks besides `ce = 1`, or the register holds no
value, so that its role is a draw (R47, log 11). The power-up bit is not asked for: what a chip without it takes in is not
in the source (R252), so an arrival stays a draw the environment may make (log 32). -/
def mayListen (P : Config) (r : Radio) : Bool :=
  selectsRx P r || Memory.read r.rreg P.regConfig.toNat == none

/-- Has RADIO something to do at `Ce(1)` (R53, R54, R55): it is started, and it is the receiver, or the transmitter with
a payload queued. -/
def hasWork (P : Config) (r : Radio) : Bool :=
  chipStarted P r && (selectsRx P r || (selectsTx P r && !r.txq.isEmpty))

/-- `Ce(1)` (R53, R54, R55). With nothing to do in its role, or not started (R44, R150, log 32), the whole state is a
draw; with `max_rt` set or an attempt pending `air`, `txq` and the flags are; in the transmitter role with a payload
queued the attempt starts; in the receiver role listening starts (log 10). -/
def radioEnable (P : Config) (n : Nat) (r : Radio) : Radio :=
  if !hasWork P r then radioUnknown n r
  else if r.maxRt || r.air == .pending then
    { r with
      maxRt := (Config.drawRadio n).maxRt
      f2 := (Config.drawRadio n).f2
      f3 := (Config.drawRadio n).f3
      txq := (Config.drawRadio n).txq
      air := if (Config.drawRadio n).pending then .pending else .idle }
  else if selectsTx P r then { r with air := .pending }
  else r

/-- One thing RADIO does by itself between two events (R53, R54), where it may: a pending attempt resolves, or a payload
arrives while it listens. What it may not do at the moment changes nothing. -/
def radioAct (P : Config) (ce : Bool) (r : Radio) : EnvAction → Radio
  | .acknowledged setsF2 =>
    if r.air = .pending then
      { r with air := .idle, txq := r.txq.tail, f2 := r.f2 || setsF2, f3 := r.f3 || !setsF2 }
    else r
  | .maxRetries => if r.air = .pending then { r with air := .idle, maxRt := true } else r
  | .arrived p setsF2 =>
    if ce && mayListen P r then { r with rxq := r.rxq ++ [p], f2 := r.f2 || setsF2, f3 := r.f3 || !setsF2 } else r

/-- PAD's position after an exchange (R56): `k <- k + 1`, up to 9; past the ninth exchange it is a draw in 0 to 9
(log 12). -/
def padAdvance (n k : Nat) : Nat := if k < 9 then k + 1 else Config.drawPosition n % 10

end Sys2Proof.Machine
end

