-- ==== Sys2Proof/Machine/Ops.lean ====
section
/-! DEFINITION. The shared operations of SEQ: emitting an event, the ten micro-operations (spec/40_primitives.md), the
bracketed transaction and the register transfers built on it (spec/41_radio_register.md R120 to R124), the recovery that
stands in the place of taking an exception (spec/45_bridge_loop.md R204, spec/60_exceptions.md R244), and reset. -/

namespace Sys2Proof.Machine

/-- An operation ends *done* with a value, or stops (R231). -/
abbrev Result (α : Type) := Except Stop α

/-- An operation's end as the step's outcome. -/
def outcomeOfResult : Result State → Host.Outcome State Fault Refusal
  | .ok s => .next s
  | .error (.fault f) => .fault f
  | .error (.refuse r) => .refused r

/-- The numeric code of a fault (R233 to R235), for reference only (R231). -/
def faultCode : Fault → Nat
  | .busContention => 2
  | .noTarget => 3
  | .selectNesting => 4

/-- The numeric code of a refusal (R232, R236 to R241), for reference only (R231); the model's own have none. -/
def refusalCode : Refusal → Option Nat
  | .uninitRead => some 1
  | .lenRange => some 5
  | .addrHasOpcodeBit => some 6
  | .reinit => some 7
  | .notInitialised => some 8
  | .roleMismatch => some 9
  | .unknownOp => some 10
  | _ => none

/-- The end of an operation that returns bytes to whoever requested it (log 21). -/
def outcomeOfReturn : Result (List Byte × State) → Host.Outcome State Fault Refusal
  | .ok (bytes, s) => .next { s with ret := bytes }
  | .error (.fault f) => .fault f
  | .error (.refuse r) => .refused r

/-! ## The environment -/

/-- The next byte TRANSPORT draws (R7, R100): the given one, else the free value (log 3). -/
def nextAnswer (s : State) : Byte := s.answers.head?.getD (Config.drawByte s.byteDraws)

/-- The draw is used up. -/
def useAnswer (s : State) : State := { s with answers := s.answers.tail, byteDraws := s.byteDraws + 1 }

/-- What RADIO does in the next gap (R53, R54): the given actions, else the free value (log 4). -/
def nextActions (s : State) : List EnvAction := s.plan.head?.getD (Config.drawActions s.envDraws)

/-- RADIO acts between two events of the block (R21, R53, R54). -/
def environmentActs (s : State) : State :=
  { s with
    radio := (nextActions s).foldl (radioAct s.cfg s.ce) s.radio
    plan := s.plan.tail
    envDraws := s.envDraws + 1 }

/-- `emit e` (R7): the event is appended to the trace; then the environment may act before the next one (R21). -/
def emit (e : Event) (s : State) : State := environmentActs { s with trace := s.trace ++ [e] }

/-! ## Micro-operations (R100 to R109) -/

/-- R102: what `CSN_ENABLE` does when its guards pass. -/
def driveCsnLow (s : State) : State := emit (.csn false) { s with csn := false, radio := radioSelect s.radio }

/-- CSN_ENABLE (R102). -/
def csnEnable (s : State) : Result State :=
  if s.att then .error (.fault .busContention)
  else if !s.csn then .error (.fault .selectNesting)
  else .ok (driveCsnLow s)

/-- R103: what `CSN_DISABLE` does when its guard passes; RADIO takes the transaction's effect here (R60). -/
def driveCsnHigh (s : State) : State :=
  emit (.csn true) { s with csn := true, radio := radioDeselect s.cfg s.envDraws s.radio }

/-- CSN_DISABLE (R103). -/
def csnDisable (s : State) : Result State :=
  if s.csn then .error (.fault .selectNesting) else .ok (driveCsnHigh s)

/-- WAIT(T) (R101). -/
def waitFor (t : TimeParam) (s : State) : State := emit (.wait t) s

/-- The byte an exchange returns (R59, R100): RADIO's while it is selected, PAD's draw otherwise. -/
def receivedByte (s : State) : Byte :=
  if s.csn then nextAnswer s else radioAnswer s.cfg s.radio (nextAnswer s)

/-- R100: what an exchange does when its guards pass. RADIO sees the byte while selected (R48), PAD while `att = 1`
(R56). -/
def exchange (tx : Byte) (s : State) : State :=
  emit (.xfer tx (receivedByte s))
    (useAnswer
      { s with
        radio := if s.csn then s.radio else { s.radio with sent := s.radio.sent ++ [tx] }
        padK := if s.att then padAdvance s.envDraws s.padK else s.padK })

/-- XFER(tx) (R100): the byte received and the state after it. -/
def xfer (tx : Byte) (s : State) : Result (Byte × State) :=
  if !s.csn && s.att then .error (.fault .busContention)
  else if s.csn && !s.att then .error (.fault .noTarget)
  else .ok (receivedByte s, exchange tx s)

/-- CE_HIGH (R104). -/
def ceHigh (s : State) : Result State :=
  if s.ce then .error (.fault .selectNesting)
  else if !s.csn then .error (.fault .selectNesting)
  else .ok (emit (.ce true) { s with ce := true, radio := radioEnable s.cfg s.envDraws s.radio })

/-- CE_LOW (R105). -/
def ceLow (s : State) : Result State :=
  if !s.ce then .error (.fault .selectNesting) else .ok (emit (.ce false) { s with ce := false })

/-- ATT_ASSERT (R106); PAD's exchange begins (R56). -/
def attAssert (s : State) : Result State :=
  if !s.csn then .error (.fault .busContention)
  else if s.att then .error (.fault .selectNesting)
  else .ok (emit (.att true) { s with att := true, padK := 0 })

/-- ATT_RELEASE (R107). -/
def attRelease (s : State) : Result State :=
  if !s.att then .error (.fault .selectNesting) else .ok (emit (.att false) { s with att := false })

/-- FAULT_ON (R108): no guard. -/
def faultOn (s : State) : State := emit (.faultSig true) { s with faultSig := true }

/-- FAULT_OFF (R109): no guard. -/
def faultOff (s : State) : State := emit (.faultSig false) { s with faultSig := false }

/-! ## Exchanges and transactions -/

/-- Exchange a sequence of bytes, `WAIT(T)` immediately before each (R120, R180): the bytes received, in order. -/
def exchangeAll (t : TimeParam) : List Byte → State → Result (List Byte × State)
  | [], s => .ok ([], s)
  | tx :: rest, s => do
    let (rx, s1) ← xfer tx (waitFor t s)
    let (rxs, s2) ← exchangeAll t rest s1
    .ok (rx :: rxs, s2)

/-- RADIO_XACT(first, dir, arg) (R120): one bracketed transaction. The length is checked before any event; the byte
returned during the first exchange is discarded (D7). -/
def radioXact (first : Byte) (arg : XactArg) (s : State) : Result (List Byte × State) :=
  if s.cfg.nMax < arg.len then .error (.refuse .lenRange)
  else do
    let s1 ← csnEnable s
    let (got, s2) ← exchangeAll .tSettle (first :: sentData s.cfg arg) s1
    let s3 ← csnDisable s2
    .ok (capturedData arg got.tail, s3)

/-- REG_WRITE(a, data) (R121). -/
def regWrite (a : Byte) (data : List Byte) (s : State) : Result State :=
  if addressAllowed s.cfg s.cfg.regTxPayload a then do
    let (_, s1) ← radioXact (writeFirst s.cfg a) (.out data) s
    .ok s1
  else .error (.refuse .addrHasOpcodeBit)

/-- REG_READ(a, n) (R122): the bytes read and the state after. -/
def regRead (a : Byte) (n : Nat) (s : State) : Result (List Byte × State) :=
  if addressAllowed s.cfg s.cfg.regRxPayload a then radioXact (readFirst a) (.inp n) s
  else .error (.refuse .addrHasOpcodeBit)

/-- STATUS_RESET (R123). -/
def statusReset (s : State) : Result State := regWrite s.cfg.regStatus [s.cfg.statusIrqMask] s

/-- The one writer of `rxp` (R16): the bytes a payload read returned go straight to it. `rxp` exists only for ROLE = RX
(R16), so in the transmitter role there is no register to take them, and nothing is stored (log 34). -/
def storeRxp (bytes : List Byte) (s : State) : State :=
  { s with rxp := if s.cfg.role = .rx then Bytes5.ofList? bytes else s.rxp }

/-! ## Recovery: what stands in the place of taking an exception (R244) -/

/-- The recovery path (R204, R244): the diagnostic signal rises, the radio's flags are reset, the signal is held and
cleared. Nothing is saved, `phase` does not change, and there is nothing to return to: control falls through (R246). -/
def recovery (s : State) : Result State := do
  let s1 ← statusReset (faultOn s)
  .ok (faultOff (waitFor .tFaultHold s1))

/-- What FAULTCHECK does with the sampled status byte (R203): classify it, and recover if the one bit is set. -/
def handleStatus (b : Byte) (s : State) : Result State :=
  if maxRtSet s.cfg b then recovery { s with outcome := outcomeOf s.cfg b }
  else .ok { s with outcome := outcomeOf s.cfg b }

/-! ## Reset (R260, R261, R263) -/

/-- The reset line: every component of the block takes its value of R30; the devices keep theirs (R261), but a
transaction the reset cuts short leaves RADIO's state a draw (R263). The model's own counters run on (log 22). -/
def resetBlock (s : State) : State :=
  { State.reset with
    cfg := s.cfg
    radio := if s.csn then s.radio
      else { radioUnknown s.envDraws s.radio with sent := [], startedBusy := false }
    padK := s.padK
    irqN := s.irqN
    inputs := s.inputs
    answers := s.answers
    byteDraws := s.byteDraws
    plan := s.plan
    envDraws := s.envDraws + 1 }

end Sys2Proof.Machine
end

