-- ==== Sys2Proof/Machine/Micro.lean ====
section
/-! DEFINITION. The meanings of the ten micro-operations (spec/40_primitives.md R100 to R109). Each is one event. -/

namespace Sys2Proof.Machine

/-- XFER (R100): the byte received is handed to whoever requested the exchange. -/
def execXfer (tx : Byte) (s : State) : Host.Outcome State Fault Refusal :=
  outcomeOfReturn ((xfer tx s).map fun r => ([r.1], r.2))

/-- WAIT (R101). -/
def execWait (t : TimeParam) (s : State) : Host.Outcome State Fault Refusal := .next (waitFor t s)

/-- CSN_ENABLE (R102). -/
def execCsnEnable (s : State) : Host.Outcome State Fault Refusal := outcomeOfResult (csnEnable s)

/-- CSN_DISABLE (R103). -/
def execCsnDisable (s : State) : Host.Outcome State Fault Refusal := outcomeOfResult (csnDisable s)

/-- CE_HIGH (R104). -/
def execCeHigh (s : State) : Host.Outcome State Fault Refusal := outcomeOfResult (ceHigh s)

/-- CE_LOW (R105). -/
def execCeLow (s : State) : Host.Outcome State Fault Refusal := outcomeOfResult (ceLow s)

/-- ATT_ASSERT (R106). -/
def execAttAssert (s : State) : Host.Outcome State Fault Refusal := outcomeOfResult (attAssert s)

/-- ATT_RELEASE (R107). -/
def execAttRelease (s : State) : Host.Outcome State Fault Refusal := outcomeOfResult (attRelease s)

/-- FAULT_ON (R108). -/
def execFaultOn (s : State) : Host.Outcome State Fault Refusal := .next (faultOn s)

/-- FAULT_OFF (R109). -/
def execFaultOff (s : State) : Host.Outcome State Fault Refusal := .next (faultOff s)

end Sys2Proof.Machine
end

