-- ==== Sys2Proof/Machine/ControllerPoll.lean ====
section
/-! DEFINITION. The controller poll and inversion decode (spec/44_controller_poll.md R180 to R188). -/

namespace Sys2Proof.Machine

/-- POLL (R180): nine exchanges inside one `att` bracket, then the decode of the nine bytes (R187). Always succeeds from
idle lines; nothing is validated (R182, R186) and no acknowledge is sampled (R188). -/
def poll (s : State) : Result State := do
  let s1 ← attAssert s
  let (r, s2) ← exchangeAll .tPadSettle pollSent s1
  let s3 ← attRelease s2
  .ok { s3 with cf := decodeFrame r }

/-- POLL (R180). -/
def execPoll (s : State) : Host.Outcome State Fault Refusal := outcomeOfResult (poll s)

end Sys2Proof.Machine
end

