-- ==== Sys2Proof/Machine/RadioInit.lean ====
section
/-! DEFINITION. The radio initialization protocol (spec/42_radio_init.md R140 to R153). -/

namespace Sys2Proof.Machine

/-- A sequence of independent register writes, in order (R140). -/
def regWriteAll : List (Byte × List Byte) → State → Result State
  | [], s => .ok s
  | (a, data) :: rest, s => do
    let s1 ← regWrite a data s
    regWriteAll rest s1

/-- INIT (R140): ten writes, the settling wait, then `init_done` (R152); refused the second time. -/
def initRadio (s : State) : Result State :=
  if s.initDone then .error (.refuse .reinit)
  else do
    let s1 ← regWriteAll (initWrites s.cfg) s
    .ok { waitFor .tInitSettle s1 with initDone := true }

/-- INIT (R140). -/
def execInit (s : State) : Host.Outcome State Fault Refusal := outcomeOfResult (initRadio s)

end Sys2Proof.Machine
end

