-- ==== Sys2Proof/Machine/RadioRegister.lean ====
section
/-! DEFINITION. The radio register transfer, the status reset and the status read (spec/41_radio_register.md R120 to
R124). -/

namespace Sys2Proof.Machine

/-- STATUS_READ (R124): `st` takes the byte of the data exchange. -/
def statusRead (s : State) : Result State := do
  let (res, s1) ← regRead s.cfg.regStatus 1 s
  .ok { s1 with st := res[0]? }

/-- RADIO_XACT (R120): returns the captured bytes on IN and nothing on OUT. -/
def execRadioXact (first : Byte) (arg : XactArg) (s : State) : Host.Outcome State Fault Refusal :=
  match arg with
  | .out data => outcomeOfResult ((radioXact first (.out data) s).map Prod.snd)
  | .inp n => outcomeOfReturn (radioXact first (.inp n) s)

/-- REG_WRITE (R121). -/
def execRegWrite (a : Byte) (data : List Byte) (s : State) : Host.Outcome State Fault Refusal :=
  outcomeOfResult (regWrite a data s)

/-- REG_READ (R122): returns the n bytes read. -/
def execRegRead (a : Byte) (n : Nat) (s : State) : Host.Outcome State Fault Refusal :=
  outcomeOfReturn (regRead a n s)

/-- STATUS_RESET (R123). -/
def execStatusReset (s : State) : Host.Outcome State Fault Refusal := outcomeOfResult (statusReset s)

/-- STATUS_READ (R124). -/
def execStatusRead (s : State) : Host.Outcome State Fault Refusal := outcomeOfResult (statusRead s)

end Sys2Proof.Machine
end

