-- ==== Sys2Proof/Machine/RadioTxRx.lean ====
section
/-! DEFINITION. Packet transmit and receive (spec/43_radio_txrx.md R160 to R168). -/

namespace Sys2Proof.Machine

/-- FLUSH_TX (R160): one transaction of the command byte alone (D10). -/
def flushTx (s : State) : Result State := do
  let (_, s1) ← radioXact s.cfg.cmdFlushTx (.out []) s
  .ok s1

/-- W_TX_PAYLOAD(p) (R161). -/
def wTxPayload (p : List Byte) (s : State) : Result State :=
  if p.length = payloadWidth then regWrite s.cfg.regTxPayload p s else .error (.refuse .lenRange)

/-- The enable pulse of TRANSMIT, steps (3) to (6) (R162, R275 to R277). -/
def enablePulse (s : State) : Result State := do
  let s1 ← ceHigh (waitFor .tTxPre s)
  let s2 ← ceLow (waitFor .tCePulse s1)
  .ok (waitFor .tTxPost s2)

/-- TRANSMIT(p) (R162): the refusals in the order of the rule, all before the first event; then flush, load, pulse. -/
def transmit (p : List Byte) (s : State) : Result State :=
  if !s.initDone then .error (.refuse .notInitialised)
  else if s.cfg.role ≠ .tx then .error (.refuse .roleMismatch)
  else if p.length ≠ payloadWidth then .error (.refuse .lenRange)
  else do
    let s1 ← flushTx s
    let s2 ← wTxPayload p s1
    enablePulse s2

/-- R_RX_PAYLOAD (R165): `rxp` takes the five bytes, in the receiver role, where it exists (R16). R165 tests no role and
R240 refuses none here, so in the transmitter role the transaction runs and its bytes are dropped. DESIGN CHOICE
(log 34). -/
def rRxPayload (s : State) : Result State := do
  let (res, s1) ← regRead s.cfg.regRxPayload payloadWidth s
  .ok (storeRxp res s1)

/-- RECEIVE (R166): listen for a fixed window, read the payload whether or not one came, reset the status. -/
def receive (s : State) : Result State :=
  if !s.initDone then .error (.refuse .notInitialised)
  else if s.cfg.role ≠ .rx then .error (.refuse .roleMismatch)
  else do
    let s1 ← ceHigh s
    let s2 ← ceLow (waitFor .tRxListen s1)
    let s3 ← rRxPayload s2
    statusReset s3

/-- FLUSH_TX (R160). -/
def execFlushTx (s : State) : Host.Outcome State Fault Refusal := outcomeOfResult (flushTx s)

/-- W_TX_PAYLOAD (R161). -/
def execWTxPayload (p : List Byte) (s : State) : Host.Outcome State Fault Refusal := outcomeOfResult (wTxPayload p s)

/-- TRANSMIT (R162). -/
def execTransmit (p : List Byte) (s : State) : Host.Outcome State Fault Refusal := outcomeOfResult (transmit p s)

/-- R_RX_PAYLOAD (R165). -/
def execRRxPayload (s : State) : Host.Outcome State Fault Refusal := outcomeOfResult (rRxPayload s)

/-- RECEIVE (R166). -/
def execReceive (s : State) : Host.Outcome State Fault Refusal := outcomeOfResult (receive s)

end Sys2Proof.Machine
end

