-- ==== Sys2Proof/Machine/BridgeLoop.lean ====
section
/-! DEFINITION. The bridge loop (spec/45_bridge_loop.md R200 to R212). -/

namespace Sys2Proof.Machine

/-- PACK (R201): emits nothing. R201 and R232 refuse it "when a register it reads holds no value" (R10, R30, D19, U14). -/
def packFrame (s : State) : Result State :=
  match s.cf.buttons, s.cf.lx, s.cf.ly with
  | some b, some lx, some ly => .ok { s with tf := some (frameOf b lx ly) }
  | _, _, _ => .error (.refuse .uninitRead)

/-- FAULTCHECK (R203, R204): one status sample, then what it asks for. R232 has the bit test refuse an `st` without a
value, "impossible, since it reads `st` just after writing it". -/
def faultcheck (s : State) : Result State :=
  if !s.initDone then .error (.refuse .notInitialised)
  else do
    let s1 ← statusRead s
    match s1.st with
    | some b => handleStatus b s1
    | none => .error (.refuse .uninitRead)

/-- TRANSMIT(tf[0..4]) as CYCLE calls it (R207); R232 refuses it "when `tf` holds no value", which PACK before it rules
out. -/
def transmitFrame (s : State) : Result State :=
  match s.tf with
  | some p => transmit p.toList s
  | none => .error (.refuse .uninitRead)

/-- WAIT_CYCLE (R206). -/
def waitCycle (s : State) : State := waitFor .tCycle s

/-- CYCLE (R207): one pass of the loop. -/
def cycle (s : State) : Result State :=
  if !s.initDone then .error (.refuse .notInitialised)
  else if s.cfg.role ≠ .tx then .error (.refuse .roleMismatch)
  else do
    let s1 ← poll { s with phase := .polling }
    let s2 ← packFrame s1
    let s3 ← transmitFrame { s2 with phase := .transmitting }
    let s4 ← faultcheck { s3 with phase := .faultcheck }
    .ok { waitCycle s4 with phase := .polling }

/-- RUN (R208): the acts before `forever`; SEQ is then inside the loop, and each later step without a request is one
CYCLE (log 13). -/
def runProgram (s : State) : Result State :=
  if s.cfg.role ≠ .tx then .error (.refuse .roleMismatch)
  else do
    let s1 ← initRadio { s with phase := .init }
    .ok { s1 with seq := .loop }

/-- PACK (R201). -/
def execPack (s : State) : Host.Outcome State Fault Refusal := outcomeOfResult (packFrame s)

/-- FAULTCHECK (R203, R204). -/
def execFaultcheck (s : State) : Host.Outcome State Fault Refusal := outcomeOfResult (faultcheck s)

/-- WAIT_CYCLE (R206). -/
def execWaitCycle (s : State) : Host.Outcome State Fault Refusal := .next (waitCycle s)

/-- CYCLE (R207). -/
def execCycle (s : State) : Host.Outcome State Fault Refusal := outcomeOfResult (cycle s)

/-- RUN (R208). -/
def execRun (s : State) : Host.Outcome State Fault Refusal := outcomeOfResult (runProgram s)

/-- OPSEL_RESERVED (R87, R241): the reserved code is refused, always (log 30). -/
def execOpselReserved (_ : State) : Host.Outcome State Fault Refusal := .refused .unknownOp

end Sys2Proof.Machine
end

