-- ==== Sys2Proof/Machine/Wire.lean ====
section
/-! DEFINITION. The rows of the opcode table that are wire formats: the radio's transactions, the controller's
exchanges, the TelemetryFrame and the status byte (spec/30_encoding.md R72 to R84). -/

namespace Sys2Proof.Machine

/-- RADIO.R_REGISTER (R73): the transaction `[a, NOP, ...]`, the returned bytes captured, under the precondition of the
form (log 17). -/
def execRadioRRegister (a : Byte) (n : Nat) (s : State) : Host.Outcome State Fault Refusal :=
  if addressAllowed s.cfg s.cfg.regRxPayload a then outcomeOfReturn (radioXact (readFirst a) (.inp n) s)
  else .refused .addrHasOpcodeBit

/-- RADIO.W_REGISTER (R72): the transaction `[W_OPCODE | a, d0, ...]`, under the precondition of the form (log 17). -/
def execRadioWRegister (a : Byte) (data : List Byte) (s : State) : Host.Outcome State Fault Refusal :=
  if addressAllowed s.cfg s.cfg.regTxPayload a then
    outcomeOfResult ((radioXact (writeFirst s.cfg a) (.out data) s).map Prod.snd)
  else .refused .addrHasOpcodeBit

/-- RADIO.FLUSH_TX (R74): the transaction `[CMD_FLUSH_TX]` (log 17). -/
def execRadioFlushTx (s : State) : Host.Outcome State Fault Refusal :=
  outcomeOfResult ((radioXact s.cfg.cmdFlushTx (.out []) s).map Prod.snd)

/-- RADIO.W_TX_PAYLOAD (R74): the transaction `[W_OPCODE | REG_TX_PAYLOAD, p0, ..., p4]` (log 17). -/
def execRadioWTxPayload (p : Bytes5) (s : State) : Host.Outcome State Fault Refusal :=
  outcomeOfResult ((radioXact (writeFirst s.cfg s.cfg.regTxPayload) (.out p.toList) s).map Prod.snd)

/-- RADIO.R_RX_PAYLOAD (R74): the transaction `[RD_OPCODE | REG_RX_PAYLOAD, NOP, ...]`; the five captured bytes go
straight to `rxp` where there is one, in the receiver role (R16, log 17, log 34). -/
def execRadioRRxPayload (s : State) : Host.Outcome State Fault Refusal :=
  outcomeOfResult ((radioXact (readFirst s.cfg.regRxPayload) (.inp payloadWidth) s).map fun r => storeRxp r.1 r.2)

/-- One exchange of the controller format: the settling wait, then the byte of the position (R80, R180, R181). The byte
reaches whatever is selected, as R100 says of every exchange: PAD inside its bracket, nothing from idle lines
(Fault(NoTarget)), and, a case only `exec` reaches, RADIO inside a radio bracket, which then sees it as a byte of its
transaction after T_PAD_SETTLE. DESIGN CHOICE (log 18). -/
def padExchange (k : Nat) (s : State) : Result (Byte × State) := xfer (padSent k) (waitFor .tPadSettle s)

/-- A controller row that captures its byte hands the decoded byte to whoever requested it (R80, log 21). `cf` is
written by POLL alone, after the ninth exchange (R11 to R13, R180, R245, log 18). -/
def padCapture (k : Nat) (s : State) : Result (List Byte × State) :=
  (padExchange k s).map fun r => (padDecoded k r.1, r.2)

/-- PAD.POLL_CMD (R80 position 0): the returned byte is ignored (R183, log 18). -/
def execPadPollCmd (s : State) : Host.Outcome State Fault Refusal := outcomeOfResult ((padExchange 0 s).map Prod.snd)

/-- PAD.READY_CMD (R80 position 1): the returned byte is the identity, not inverted (R182, log 18). -/
def execPadReadyCmd (s : State) : Host.Outcome State Fault Refusal := outcomeOfReturn (padCapture 1 s)

/-- PAD.FILL (R80 position 2): the returned byte is ignored (R183, log 18). -/
def execPadFill (s : State) : Host.Outcome State Fault Refusal := outcomeOfResult ((padExchange 2 s).map Prod.snd)

/-- PAD.NOP at positions 3 to 8 (R80): the returned byte is inverted; POLL puts it where its position says (R184, R185,
log 18). -/
def execPadNop (f : PadField) (s : State) : Host.Outcome State Fault Refusal :=
  outcomeOfReturn (padCapture (padFieldPosition f) s)

/-- TFRAME (R84): the frame goes from the block to the radio as the payload (R70, log 19). -/
def execTframe (l h x y : Byte) (s : State) : Host.Outcome State Fault Refusal :=
  outcomeOfResult (wTxPayload [l, h, x, y, tfReserved] s)

/-- The byte the radio will draw in the data exchange of the next one-byte read is given: the second byte from now
(R100, R120). -/
def giveDataByte (b : Byte) (s : State) : State := { s with answers := nextAnswer s :: b :: s.answers.drop 2 }

/-- STATUS_BYTE (R77): the one byte the block reads of this format is FAULTCHECK's sample, so the row is FAULTCHECK with
the byte given as the radio's draw. `st` is written by the status read, its three flag bits are RADIO's (R50), the one
tested bit decides the outcome, and the one written pattern is the recovery's (R203, R204). DESIGN CHOICE (log 20). -/
def execStatusByte (b : Byte) (s : State) : Host.Outcome State Fault Refusal :=
  outcomeOfResult (faultcheck (giveDataByte b s))

end Sys2Proof.Machine
end

