-- ==== Sys2Proof/Machine/Dispatch.lean ====
section
/-! DEFINITION. The meaning of each instruction: one arm per constructor, one direct call each. -/

namespace Sys2Proof.Machine

def exec (i : Instr) (s : State) : Host.Outcome State Fault Refusal :=
  match i with
  | .regRead a n => Sys2Proof.Machine.execRegRead a n s
  | .regWrite a data => Sys2Proof.Machine.execRegWrite a data s
  | .statusReset => Sys2Proof.Machine.execStatusReset s
  | .statusRead => Sys2Proof.Machine.execStatusRead s
  | .init => Sys2Proof.Machine.execInit s
  | .flushTx => Sys2Proof.Machine.execFlushTx s
  | .wTxPayload p => Sys2Proof.Machine.execWTxPayload p s
  | .transmit p => Sys2Proof.Machine.execTransmit p s
  | .rRxPayload => Sys2Proof.Machine.execRRxPayload s
  | .receive => Sys2Proof.Machine.execReceive s
  | .poll => Sys2Proof.Machine.execPoll s
  | .pack => Sys2Proof.Machine.execPack s
  | .faultcheck => Sys2Proof.Machine.execFaultcheck s
  | .waitCycle => Sys2Proof.Machine.execWaitCycle s
  | .cycle => Sys2Proof.Machine.execCycle s
  | .opselReserved => Sys2Proof.Machine.execOpselReserved s
  | .run => Sys2Proof.Machine.execRun s
  | .radioXact first arg => Sys2Proof.Machine.execRadioXact first arg s
  | .xfer tx => Sys2Proof.Machine.execXfer tx s
  | .wait t => Sys2Proof.Machine.execWait t s
  | .csnEnable => Sys2Proof.Machine.execCsnEnable s
  | .csnDisable => Sys2Proof.Machine.execCsnDisable s
  | .ceHigh => Sys2Proof.Machine.execCeHigh s
  | .ceLow => Sys2Proof.Machine.execCeLow s
  | .attAssert => Sys2Proof.Machine.execAttAssert s
  | .attRelease => Sys2Proof.Machine.execAttRelease s
  | .faultOn => Sys2Proof.Machine.execFaultOn s
  | .faultOff => Sys2Proof.Machine.execFaultOff s
  | .radioRRegister a n => Sys2Proof.Machine.execRadioRRegister a n s
  | .radioWRegister a data => Sys2Proof.Machine.execRadioWRegister a data s
  | .radioFlushTx => Sys2Proof.Machine.execRadioFlushTx s
  | .radioWTxPayload p => Sys2Proof.Machine.execRadioWTxPayload p s
  | .radioRRxPayload => Sys2Proof.Machine.execRadioRRxPayload s
  | .padPollCmd => Sys2Proof.Machine.execPadPollCmd s
  | .padReadyCmd => Sys2Proof.Machine.execPadReadyCmd s
  | .padFill => Sys2Proof.Machine.execPadFill s
  | .padNop f => Sys2Proof.Machine.execPadNop f s
  | .tframe l h x y => Sys2Proof.Machine.execTframe l h x y s
  | .statusByte b => Sys2Proof.Machine.execStatusByte b s

end Sys2Proof.Machine
end

