-- ==== Sys2Proof/Machine/Fetch.lean ====
section
/-! DEFINITION. What SEQ does next: a pending input, or the next act of the fixed program (spec/45_bridge_loop.md R208,
spec/70_reset_and_hazards.md R262). -/

namespace Sys2Proof.Machine

/-- What the next step is. -/
inductive Next where
  /-- The reset line is raised (R4). -/
  | reset
  /-- An instruction. -/
  | run (i : Instr)
  /-- A request whose bytes are no request. -/
  | bad (e : DecodeError)
deriving DecidableEq, Repr

/-- The next act of the fixed program (R208, R262): RUN from its start, then one CYCLE after the other. -/
def programNext : SeqPos → Instr
  | .start => .run
  | .loop => .cycle

/-- The next step, and the state with the input it takes removed (log 13, 14, 22). -/
def fetch (s : State) : Next × State :=
  match s.inputs with
  | .reset :: rest => (.reset, { s with inputs := rest })
  | .request r :: rest =>
    match decode s.cfg r with
    | .ok i => (.run i, { s with inputs := rest })
    | .error e => (.bad e, { s with inputs := rest })
  | [] => (.run (programNext s.seq), s)

/-- A request placed before every other input. -/
def requestFirst (r : Request) (s : State) : State := { s with inputs := .request r :: s.inputs }

end Sys2Proof.Machine
end

