-- ==== Sys2Proof/Machine/Step.lean ====
section
/-! DEFINITION. One step of the machine: one input or one act of the fixed program, taken whole (spec/10_state.md R21). -/

namespace Sys2Proof.Machine

/-- One step: the reset line, a decoded request, or the next act of the fixed program. -/
def step (s : State) : Host.Outcome State Fault Refusal :=
  match fetch s with
  | (.reset, s1) => .next (resetBlock s1)
  | (.run i, s1) => exec i s1
  | (.bad e, _) => .refused (.badRequest e)

/-- The state with the instruction of a word of spec/opcode_table.json where the next step takes it: a request before
every other input (log 14, log 15). -/
def State.withFetchWord (s : State) (nbits w : Nat) : State := requestFirst (tableRequest Config.pGK nbits w) s

end Sys2Proof.Machine
end

