-- ==== Sys2Proof/Safety.lean ====
section
/-! DEFINITION. What counts as a safe state and a safe trace, in the terms the claims use: idle lines, the bus discipline
of the hazards (spec/70_reset_and_hazards.md R270 to R273), what is the same in two states, and readings of a trace. -/

namespace Sys2Proof.Safety

open Sys2Proof.Machine

/-! ## States -/

/-- R28: between operations the lines are idle. -/
abbrev idleLines (s : State) : Prop := s.csn = true ∧ s.ce = false ∧ s.att = false ∧ s.faultSig = false

/-- R27: radio and controller are never selected together. -/
abbrev neverBoth (s : State) : Prop := ¬(s.csn = false ∧ s.att = true)

/-- No line differs. -/
abbrev sameLines (s t : State) : Prop :=
  t.csn = s.csn ∧ t.ce = s.ce ∧ t.att = s.att ∧ t.faultSig = s.faultSig

/-- No data register differs (R17). -/
abbrev sameData (s t : State) : Prop := t.cf = s.cf ∧ t.tf = s.tf ∧ t.st = s.st ∧ t.rxp = s.rxp

/-- Neither flag (R18, R19) nor the program counter (R20, R21) differs. -/
abbrev sameControl (s t : State) : Prop :=
  t.outcome = s.outcome ∧ t.initDone = s.initDone ∧ t.phase = s.phase ∧ t.seq = s.seq

/-- What no operation writes: the configuration (R5), the unread line (R242), the pending inputs. -/
abbrev sameFixed (s t : State) : Prop := t.cfg = s.cfg ∧ t.irqN = s.irqN ∧ t.inputs = s.inputs

/-- Every byte of the register map of RADIO reads as before (R46). -/
abbrev sameMemory (s t : State) : Prop := ∀ a, Memory.read t.radio.rreg a = Memory.read s.radio.rreg a

/-- No flag of RADIO that is set becomes clear (R53). -/
abbrev flagsStay (s t : State) : Prop :=
  (s.radio.maxRt = true → t.radio.maxRt = true) ∧ (s.radio.f2 = true → t.radio.f2 = true) ∧
    (s.radio.f3 = true → t.radio.f3 = true)

/-- RADIO does nothing by itself and no attempt is in flight: the enable line is low and `air` is IDLE (R53, R54). -/
abbrev quiet (s : State) : Prop := s.ce = false ∧ s.radio.air = .idle

/-- The block may transmit: idle lines, INIT done, transmitter role (R28, R162, R207). -/
abbrev readyTx (s : State) : Prop := idleLines s ∧ s.initDone = true ∧ s.cfg.role = .tx

/-- The outcome with the unread interrupt line of its next state set. -/
def withIrq (b : Bool) : Host.Outcome State Fault Refusal → Host.Outcome State Fault Refusal
  | .next t => .next { t with irqN := b }
  | .fault f => .fault f
  | .refused r => .refused r

/-! ## Draws -/

/-- The k-th byte TRANSPORT draws from a state on (R7, R100, log 3). -/
def answerAt (s : State) (k : Nat) : Byte := s.answers[k]?.getD (Config.drawByte (s.byteDraws + k))

/-- The first n bytes TRANSPORT draws from a state on. -/
def answersFrom (s : State) (n : Nat) : List Byte := (List.range n).map (answerAt s)

/-! ## Traces -/

/-- The events of a sequence of exchanges: a wait before each (R120, R180). -/
def exchangeEvents (t : TimeParam) : List Byte → List Byte → List Event
  | tx :: txs, rx :: rxs => .wait t :: .xfer tx rx :: exchangeEvents t txs rxs
  | _, _ => []

/-- The events of one radio transaction: the bytes sent, first byte first, and the bytes received (R120). -/
def xactEvents (sent received : List Byte) : List Event :=
  .csn false :: exchangeEvents .tSettle sent received ++ [.csn true]

/-- The events of one poll (R180). -/
def pollEvents (received : List Byte) : List Event :=
  .att true :: exchangeEvents .tPadSettle pollSent received ++ [.att false]

/-- The bytes sent in the radio transactions of a trace, one list for each `csn` bracket, in order (R48). `open'` is the
bracket being read, if one is open. -/
def radioBrackets : Option (List Byte) → List Event → List (List Byte)
  | _, [] => []
  | _, .csn false :: es => radioBrackets (some []) es
  | some sent, .csn true :: es => sent :: radioBrackets none es
  | none, .csn true :: es => radioBrackets none es
  | some sent, .xfer tx _ :: es => radioBrackets (some (sent ++ [tx])) es
  | none, .xfer _ _ :: es => radioBrackets none es
  | o, .ce _ :: es => radioBrackets o es
  | o, .att _ :: es => radioBrackets o es
  | o, .faultSig _ :: es => radioBrackets o es
  | o, .wait _ :: es => radioBrackets o es

/-- The bytes received in the polls of a trace, one list for each `att` bracket, in order (R56). -/
def pollBrackets : Option (List Byte) → List Event → List (List Byte)
  | _, [] => []
  | _, .att true :: es => pollBrackets (some []) es
  | some got, .att false :: es => got :: pollBrackets none es
  | none, .att false :: es => pollBrackets none es
  | some got, .xfer _ rx :: es => pollBrackets (some (got ++ [rx])) es
  | none, .xfer _ _ :: es => pollBrackets none es
  | o, .csn _ :: es => pollBrackets o es
  | o, .ce _ :: es => pollBrackets o es
  | o, .faultSig _ :: es => pollBrackets o es
  | o, .wait _ :: es => pollBrackets o es

/-- The least time a sequence of events takes, byte exchanges not counted (R101, R285). -/
def waitTime (P : Config) : List Event → Nat
  | [] => 0
  | .wait t :: es => P.duration t + waitTime P es
  | .csn _ :: es => waitTime P es
  | .ce _ :: es => waitTime P es
  | .att _ :: es => waitTime P es
  | .faultSig _ :: es => waitTime P es
  | .xfer _ _ :: es => waitTime P es

/-- The trace without its waits (R7, D39). -/
def withoutWaits : List Event → List Event
  | [] => []
  | .wait _ :: es => withoutWaits es
  | .csn b :: es => .csn b :: withoutWaits es
  | .ce b :: es => .ce b :: withoutWaits es
  | .att b :: es => .att b :: withoutWaits es
  | .faultSig b :: es => .faultSig b :: withoutWaits es
  | .xfer tx rx :: es => .xfer tx rx :: withoutWaits es

/-- The total wait before each event that is no wait, and after the last. R7 and D39 bound the waits between two
consecutive such events; that the wait before the first and the wait after the last count as gaps too is the model's
choice. DESIGN CHOICE (log 36). -/
def gapTimes (P : Config) (sofar : Nat) : List Event → List Nat
  | [] => [sofar]
  | .wait t :: es => gapTimes P (sofar + P.duration t) es
  | .csn _ :: es => sofar :: gapTimes P 0 es
  | .ce _ :: es => sofar :: gapTimes P 0 es
  | .att _ :: es => sofar :: gapTimes P 0 es
  | .faultSig _ :: es => sofar :: gapTimes P 0 es
  | .xfer _ _ :: es => sofar :: gapTimes P 0 es

/-- R7, D39: the second trace is one an implementation of the first may show: the same but for waits, and in no gap
does it wait less. The gaps of `gapTimes` are R7's and, by the model's choice, the two ends. DESIGN CHOICE (log 36). -/
def implementsTrace (P : Config) (spec impl : List Event) : Prop :=
  withoutWaits impl = withoutWaits spec ∧ List.Forall₂ (· ≤ ·) (gapTimes P 0 spec) (gapTimes P 0 impl)

/-! ## The bus discipline as a monitor over events -/

/-- What the monitor knows: the lines, and whether the last event was a settling wait, and which. -/
structure Monitor where
  csn     : Bool
  ce      : Bool
  att     : Bool
  settled : Option TimeParam
deriving DecidableEq, Repr

/-- Idle lines, nothing waited. -/
def Monitor.idle : Monitor := ⟨true, false, false, none⟩

/-- One event under the discipline; none where it breaks it. Radio bytes only inside `csn` and right after `T_SETTLE`
(R125, R270); controller bytes only inside `att` and right after `T_PAD_SETTLE` (R271); brackets alternate (R125, R272)
and never interleave (R27, R273); `ce` alternates and moves outside transactions (R104, R105). -/
def monitorStep (m : Monitor) : Event → Option Monitor
  | .csn false => if m.csn && !m.att then some { m with csn := false, settled := none } else none
  | .csn true => if !m.csn then some { m with csn := true, settled := none } else none
  | .att true => if m.csn && !m.att then some { m with att := true, settled := none } else none
  | .att false => if m.att then some { m with att := false, settled := none } else none
  | .ce true => if m.csn && !m.ce then some { m with ce := true, settled := none } else none
  | .ce false => if m.ce then some { m with ce := false, settled := none } else none
  | .faultSig _ => some { m with settled := none }
  | .wait t => some { m with settled := some t }
  | .xfer _ _ =>
    if !m.csn && !m.att && m.settled == some .tSettle then some { m with settled := none }
    else if m.csn && m.att && m.settled == some .tPadSettle then some { m with settled := none }
    else none

/-- A sequence of events under the discipline. -/
def monitorRun : Monitor → List Event → Option Monitor
  | m, [] => some m
  | m, e :: es => match monitorStep m e with
    | some m1 => monitorRun m1 es
    | none => none

/-- The events keep the discipline from idle lines and leave idle lines: every bracket is closed (R272). -/
def disciplined (es : List Event) : Prop :=
  ∃ m, monitorRun Monitor.idle es = some m ∧ m.csn = true ∧ m.ce = false ∧ m.att = false

/-! ## Instructions by kind -/

/-- The ten micro-operations (R6, R100 to R109): the only instructions that may leave a bracket open. -/
def isMicro : Instr → Bool
  | .xfer _ | .wait _ | .csnEnable | .csnDisable | .ceHigh | .ceLow | .attAssert | .attRelease | .faultOn | .faultOff => true
  | .regRead _ _ | .regWrite _ _ | .statusReset | .statusRead | .init | .flushTx | .wTxPayload _ | .transmit _
  | .rRxPayload | .receive | .poll | .pack | .faultcheck | .waitCycle | .cycle | .opselReserved | .run
  | .radioXact _ _ | .radioRRegister _ _ | .radioWRegister _ _ | .radioFlushTx | .radioWTxPayload _ | .radioRRxPayload
  | .padPollCmd | .padReadyCmd | .padFill | .padNop _ | .tframe _ _ _ _ | .statusByte _ => false

/-- R110 with the model's own part: what a micro-operation leaves alone besides the lines: every data register, the
flags, the phase, and what nothing writes. -/
abbrev microFrame (s t : State) : Prop := sameData s t ∧ sameControl s t ∧ sameFixed s t

/-! ## Invariants -/

/-- The invariant of every step: the selects exclude each other (R27), the register map is canonical, PAD's position is
0 to 9 (R56), RADIO holds no bytes of a transaction while it is not selected (R48), and a transmitter has no `rxp`
(R16). -/
abbrev Inv (s : State) : Prop :=
  neverBoth s ∧ Memory.wf s.radio.rreg = true ∧ s.padK ≤ 9 ∧ (s.csn = true → s.radio.sent = []) ∧
    (s.cfg.role = .tx → s.rxp = none)

end Sys2Proof.Safety
end

