-- ==== Sys2Proof/Certificates/Slice0/Obligations.lean ====
section
/-! DEFINITION. The statements about the PDR bridge block. Each cites the rules of spec/ it formalises; OBLIGATIONS.json
lists them. -/

open Sys2Proof Sys2Proof.Machine Sys2Proof.Safety

/-! ## Reset -/

/-- R30: the state after reset, component by component. -/
def Obligations.ResetValuesOfTheBlock : Prop :=
  State.reset.csn = true ∧ State.reset.ce = false ∧ State.reset.att = false ∧ State.reset.faultSig = false ∧
    State.reset.cf = ⟨none, none, none, none, none, none⟩ ∧ State.reset.tf = none ∧ State.reset.st = none ∧
    State.reset.rxp = none ∧ State.reset.outcome = .none ∧ State.reset.initDone = false ∧
    State.reset.phase = .reset ∧ State.reset.trace = []

/-- The invariant, idle lines (R28) and the constraints of R5 hold at reset. The configuration is the model's choice
(log 1). -/
def Obligations.ResetMeetsTheInvariants : Prop :=
  Inv State.reset ∧ idleLines State.reset ∧ State.reset.cfg.wf

/-- R260, R261: the reset input puts every component of the block at its reset value and leaves the devices alone
when no transaction is cut short; that the input is taken between operations is the model's choice (log 22). -/
def Obligations.ResetInputResetsOnlyTheBlock : Prop :=
  ∀ (s : State) (rest : List Input), s.inputs = .reset :: rest →
    ∃ t, step s = .next t ∧ idleLines t ∧ t.cf = ⟨none, none, none, none, none, none⟩ ∧ t.tf = none ∧ t.st = none ∧
      t.rxp = none ∧ t.outcome = .none ∧ t.initDone = false ∧ t.phase = .reset ∧ t.seq = .start ∧ t.trace = [] ∧
      t.cfg = s.cfg ∧ t.irqN = s.irqN ∧ t.padK = s.padK ∧ t.inputs = rest ∧ (s.csn = true → t.radio = s.radio)

/-! ## Encoding -/

/-- R71 to R87: what the encoder writes for a well-formed instruction the decoder reads back, for every instruction
and every configuration the constraints of R5 admit. -/
def Obligations.DecodeInvertsEncode : Prop :=
  ∀ (P : Config) (i : Instr) (r : Request), P.wf → i.wf P = true → encode P i = some r → decode P r = .ok i

/-- R48, R71, R89: reading the bytes of a radio bracket and writing the instruction again gives the first byte back
unchanged and as many data bytes; for a write, the data bytes themselves. -/
def Obligations.RadioDecodingLosesNoByte : Prop :=
  ∀ (P : Config) (c : Byte) (data : List Byte) (i : Instr), P.wf → decode P ⟨.radioXact, c :: data⟩ = .ok i →
    ∃ data', encode P i = some ⟨.radioXact, c :: data'⟩ ∧ data'.length = data.length ∧
      ((classify P c = .payloadWrite ∨ ∃ a, classify P c = .regWrite a) → data' = data)

/-- R80, R84, R87 and the worked bytes of spec/95_test_vectors.md: words written out from the spec's encodings decode
to the instructions they stand for, under P_GK. -/
def Obligations.WordsOfTheSpecDecode : Prop :=
  decode Config.pGK ⟨.opsel, [0x00#8, 0x07#8, 0x01#8]⟩ = .ok (.regRead 0x07#8 1) ∧
    decode Config.pGK ⟨.opsel, [0x0A#8]⟩ = .ok .poll ∧
    decode Config.pGK ⟨.opsel, [0x0F#8]⟩ = .ok .opselReserved ∧
    decode Config.pGK ⟨.radioXact, [0x25#8, 0x4C#8]⟩ = .ok (.radioWRegister 0x05#8 [0x4C#8]) ∧
    decode Config.pGK ⟨.radioXact, [0x07#8, 0xFF#8]⟩ = .ok (.radioRRegister 0x07#8 1) ∧
    decode Config.pGK ⟨.radioXact, [0xE1#8]⟩ = .ok .radioFlushTx ∧
    decode Config.pGK ⟨.padXchg 1, [0x42#8]⟩ = .ok .padReadyCmd ∧
    decode Config.pGK ⟨.padXchg 7, [0xFF#8]⟩ = .ok (.padNop .leftX) ∧
    decode Config.pGK ⟨.tframe, [0x80#8, 0x01#8, 0x80#8, 0x7F#8, 0x00#8]⟩ = .ok (.tframe 0x80#8 0x01#8 0x80#8 0x7F#8)

/-! ## The step -/

/-- A pending request that decodes to an instruction is run as that instruction, the request removed and nothing else
changed; bytes that are no request are refused by name. The request input is the model's (log 14). -/
def Obligations.StepRunsTheDecodedRequest : Prop :=
  ∀ (s : State) (r : Request) (rest : List Input), s.inputs = .request r :: rest →
    (∀ i, decode s.cfg r = .ok i → step s = exec i { s with inputs := rest }) ∧
      (∀ e, decode s.cfg r = .error e → step s = .refused (.badRequest e))

/-- R208, R262: with no input pending SEQ runs the fixed program: RUN first, then one CYCLE after the other. -/
def Obligations.StepRunsTheFixedProgram : Prop :=
  ∀ s : State, s.inputs = [] →
    (s.seq = .start → step s = exec .run s) ∧ (s.seq = .loop → step s = exec .cycle s)

/-! ## Invariants of every step -/

/-- R27, R56, R48, R16: every step keeps the invariant, from every state that has it, and so does every single
instruction, the micro-operations among them. -/
def Obligations.StepKeepsTheInvariant : Prop :=
  (∀ s t : State, Inv s → step s = .next t → Inv t) ∧
    ∀ (i : Instr) (s t : State), Inv s → exec i s = .next t → Inv t

/-- R28, R209, R246: every step from idle lines ends with idle lines; and once the loop is entered, ready to transmit,
every step but the reset input keeps it so: the system never gives up. -/
def Obligations.StepKeepsTheLinesIdle : Prop :=
  (∀ s t : State, idleLines s → step s = .next t → idleLines t) ∧
    ∀ s t : State, s.cfg.wf → readyTx s → s.seq = .loop → s.inputs.head? ≠ some .reset → step s = .next t →
      t.cfg.wf ∧ readyTx t ∧ t.seq = .loop

/-- R125, R270 to R273: whatever an operation does from idle lines, its events keep the bus discipline: brackets
alternate, close and never interleave, and every byte follows its settling wait. -/
def Obligations.OperationsKeepTheBusDiscipline : Prop :=
  ∀ (i : Instr) (s t : State), isMicro i = false → idleLines s → exec i s = .next t →
    ∃ es, t.trace = s.trace ++ es ∧ disciplined es

/-- R152: `init_done` never returns to 0 except by reset; and the configuration is fixed (R5). -/
def Obligations.InitDoneIsNeverCleared : Prop :=
  ∀ s t : State, step s = .next t →
    t.cfg = s.cfg ∧ (s.inputs.head? ≠ some .reset → s.initDone = true → t.initDone = true)

/-- R26: the trace is everything the block has done, in order: no instruction removes or rewrites an event. -/
def Obligations.TraceOnlyGrows : Prop :=
  ∀ (i : Instr) (s t : State), exec i s = .next t → ∃ es, t.trace = s.trace ++ es

/-- R242, R4: the interrupt line is never sampled: no instruction's outcome depends on it. -/
def Obligations.InterruptLineIsNeverRead : Prop :=
  ∀ (i : Instr) (s : State) (b : Bool), exec i { s with irqN := b } = withIrq b (exec i s)

/-- R9, R16, R245: which instructions may change which state, `rxp` in the receiver role only. RADIO.R_RX_PAYLOAD stands
beside R_RX_PAYLOAD (log 17), and STATUS_BYTE, which is a FAULTCHECK with its sample given, beside FAULTCHECK (log 20). -/
def Obligations.OnlyTheOwnerWrites : Prop :=
  ∀ (i : Instr) (s t : State), exec i s = .next t →
    (t.cf ≠ s.cf → i = .poll ∨ i = .cycle) ∧
    (t.tf ≠ s.tf → i = .pack ∨ i = .cycle) ∧
    (t.st ≠ s.st → i = .statusRead ∨ i = .faultcheck ∨ i = .cycle ∨ ∃ b, i = .statusByte b) ∧
    (t.rxp ≠ s.rxp → s.cfg.role = .rx ∧ (i = .rRxPayload ∨ i = .receive ∨ i = .radioRRxPayload)) ∧
    (t.outcome ≠ s.outcome → i = .faultcheck ∨ i = .cycle ∨ ∃ b, i = .statusByte b) ∧
    (t.initDone ≠ s.initDone → i = .init ∨ i = .run) ∧
    (t.phase ≠ s.phase → i = .cycle ∨ i = .run) ∧
    (t.csn ≠ s.csn → i = .csnEnable ∨ i = .csnDisable) ∧
    (t.ce ≠ s.ce → i = .ceHigh ∨ i = .ceLow) ∧
    (t.att ≠ s.att → i = .attAssert ∨ i = .attRelease) ∧
    (t.faultSig ≠ s.faultSig → i = .faultOn ∨ i = .faultOff ∨ i = .faultcheck ∨ i = .cycle ∨ ∃ b, i = .statusByte b) ∧
    t.cfg = s.cfg ∧ t.irqN = s.irqN ∧ t.inputs = s.inputs

/-! ## Micro-operations -/

/-- R100, R48, R59: with the radio selected XFER exchanges the byte with RADIO. -/
def Obligations.XferWithRadioCompletes : Prop :=
  ∀ (tx : Byte) (s : State), s.csn = false → s.att = false →
    ∃ t rx, exec (.xfer tx) s = .next t ∧ rx = radioAnswer s.cfg s.radio (answerAt s 0) ∧ t.ret = [rx] ∧
      t.trace = s.trace ++ [.xfer tx rx] ∧ t.radio.sent = s.radio.sent ++ [tx] ∧ t.padK = s.padK ∧
      sameLines s t ∧ microFrame s t ∧ sameMemory s t

/-- R100, R56, R59: with the controller selected XFER exchanges the byte with PAD, whose answer is a draw and whose
position advances; RADIO ignores it. -/
def Obligations.XferWithPadCompletes : Prop :=
  ∀ (tx : Byte) (s : State), s.csn = true → s.att = true →
    ∃ t rx, exec (.xfer tx) s = .next t ∧ rx = answerAt s 0 ∧ t.ret = [rx] ∧
      t.trace = s.trace ++ [.xfer tx rx] ∧ t.radio.sent = s.radio.sent ∧ (s.padK < 9 → t.padK = s.padK + 1) ∧
      sameLines s t ∧ microFrame s t ∧ sameMemory s t

/-- R100, R233, R234: XFER with both devices selected or with none is a fault. -/
def Obligations.XferFaultsWithoutOneTarget : Prop :=
  ∀ (tx : Byte) (s : State),
    (s.csn = false → s.att = true → exec (.xfer tx) s = .fault .busContention) ∧
      (s.csn = true → s.att = false → exec (.xfer tx) s = .fault .noTarget)

/-- R101, R206: WAIT and WAIT_CYCLE record their event and change nothing else of the block. -/
def Obligations.WaitsOnlyRecord : Prop :=
  ∀ s : State,
    (∀ T, ∃ t, exec (.wait T) s = .next t ∧ t.trace = s.trace ++ [.wait T] ∧ t.ret = s.ret ∧ t.padK = s.padK ∧
      sameLines s t ∧ microFrame s t ∧ sameMemory s t) ∧
    (∃ t, exec .waitCycle s = .next t ∧ t.trace = s.trace ++ [.wait .tCycle] ∧ t.ret = s.ret ∧ t.padK = s.padK ∧
      sameLines s t ∧ microFrame s t ∧ sameMemory s t)

/-- R102: CSN_ENABLE selects the radio. -/
def Obligations.CsnEnableSelects : Prop :=
  ∀ s : State, s.csn = true → s.att = false →
    ∃ t, exec .csnEnable s = .next t ∧ t.csn = false ∧ t.trace = s.trace ++ [.csn false] ∧ t.radio.sent = [] ∧
      t.ce = s.ce ∧ t.att = s.att ∧ t.faultSig = s.faultSig ∧ t.ret = s.ret ∧ t.padK = s.padK ∧
      microFrame s t ∧ sameMemory s t

/-- R103: CSN_DISABLE deselects the radio. What the transaction does to the device is another statement. -/
def Obligations.CsnDisableDeselects : Prop :=
  ∀ s : State, s.csn = false →
    ∃ t, exec .csnDisable s = .next t ∧ t.csn = true ∧ t.trace = s.trace ++ [.csn true] ∧ t.radio.sent = [] ∧
      t.ce = s.ce ∧ t.att = s.att ∧ t.faultSig = s.faultSig ∧ t.ret = s.ret ∧ t.padK = s.padK ∧ microFrame s t

/-- R49, R50, R51, R53, R60: a register write of the register's width takes effect at `Csn(1)`: that register holds the
data and every other register is as before; a read, and a write of the status register, leave every register as it is.
Only the write of the status register may clear a flag. -/
def Obligations.RegisterWriteLandsAtDeselect : Prop :=
  ∀ (s : State) (a : Byte) (data : List Byte), s.cfg.wf → s.csn = false → s.radio.startedBusy = false →
    a ∈ s.cfg.mapRegisters → regWidth s.cfg a = some data.length →
    ∃ t, exec .csnDisable s = .next t ∧
      (s.radio.sent = writeFirst s.cfg a :: data → a ≠ s.cfg.regStatus →
        Memory.read t.radio.rreg a.toNat = some data ∧
          (∀ b, b ≠ a.toNat → Memory.read t.radio.rreg b = Memory.read s.radio.rreg b) ∧ flagsStay s t) ∧
      (s.radio.sent = writeFirst s.cfg a :: data → a = s.cfg.regStatus → sameMemory s t) ∧
      (s.radio.sent = readFirst a :: data → sameMemory s t ∧ flagsStay s t)

/-- R104: CE_HIGH asserts the enable line. The register map is left alone wherever the radio is started and has something
to do in its role (R53, R54, R55); that a chip without the power-up bit has nothing to do is the model's reading (log
32). -/
def Obligations.CeHighAsserts : Prop :=
  ∀ s : State, s.ce = false → s.csn = true →
    ∃ t, exec .ceHigh s = .next t ∧ t.ce = true ∧ t.trace = s.trace ++ [.ce true] ∧ t.csn = s.csn ∧ t.att = s.att ∧
      t.faultSig = s.faultSig ∧ t.ret = s.ret ∧ t.padK = s.padK ∧ microFrame s t ∧
      (chipStarted s.cfg s.radio = true →
        (selectsRx s.cfg s.radio = true ∨ (selectsTx s.cfg s.radio = true ∧ s.radio.txq ≠ [])) → sameMemory s t)

/-- R53: `Ce(1)` in the transmitter role with a payload queued, no failure flag set and nothing pending starts an
attempt, and queue and flags are as before while the environment does nothing. That the power-up bit must be set is the
model's reading of R150 (log 32). -/
def Obligations.CeHighStartsAnAttempt : Prop :=
  ∀ s : State, s.ce = false → s.csn = true → chipStarted s.cfg s.radio = true → selectsTx s.cfg s.radio = true →
    s.radio.txq ≠ [] → s.radio.maxRt = false → s.radio.air = .idle → s.plan.head? = some [] →
    ∃ t, exec .ceHigh s = .next t ∧ t.radio = { s.radio with air := .pending }

/-- R53, R54: what RADIO may do by itself between two events, seen over one WAIT: a pending attempt is acknowledged (the
head of the queue is removed and one of the two other flags set) or exceeds its retries (the failure flag is set, the
queue unchanged), with nothing pending neither happens, and a payload arrives only while it listens. And a flag once set
stays set: no event but a `Csn(1)` and a `Ce(1)` can clear one, and no `Ce(1)` that starts an attempt or listening does. That
starting either needs the power-up bit is the model's reading of R150 (log 32). -/
def Obligations.RadioResolvesAttemptsAndKeepsItsFlags : Prop :=
  (∀ (T : TimeParam) (act : EnvAction) (s : State), s.plan.head? = some [act] →
    ∃ t, exec (.wait T) s = .next t ∧
      (s.radio.air = .pending →
        (∀ b, act = .acknowledged b →
          t.radio = { s.radio with
            air := .idle, txq := s.radio.txq.tail, f2 := s.radio.f2 || b, f3 := s.radio.f3 || !b }) ∧
        (act = .maxRetries → t.radio = { s.radio with air := .idle, maxRt := true })) ∧
      (s.radio.air = .idle → (∀ p b, act ≠ .arrived p b) → t.radio = s.radio) ∧
      (∀ p b, act = .arrived p b →
        (s.ce = true → selectsRx s.cfg s.radio = true →
          t.radio = { s.radio with
            rxq := s.radio.rxq ++ [p], f2 := s.radio.f2 || b, f3 := s.radio.f3 || !b }) ∧
        (s.ce = false ∨ selectsTx s.cfg s.radio = true → t.radio = s.radio))) ∧
  (∀ (i : Instr) (s t : State), isMicro i = true → i ≠ .csnDisable → i ≠ .ceHigh → exec i s = .next t →
    flagsStay s t) ∧
  (∀ s t : State, chipStarted s.cfg s.radio = true →
    (selectsRx s.cfg s.radio = true ∨ (selectsTx s.cfg s.radio = true ∧ s.radio.txq ≠ [])) → s.radio.maxRt = false →
    s.radio.air = .idle → exec .ceHigh s = .next t → flagsStay s t)

/-- R105: CE_LOW deasserts the enable line. -/
def Obligations.CeLowDeasserts : Prop :=
  ∀ s : State, s.ce = true →
    ∃ t, exec .ceLow s = .next t ∧ t.ce = false ∧ t.trace = s.trace ++ [.ce false] ∧ t.csn = s.csn ∧ t.att = s.att ∧
      t.faultSig = s.faultSig ∧ t.ret = s.ret ∧ t.padK = s.padK ∧ microFrame s t ∧ sameMemory s t

/-- R106, R107, R56: ATT_ASSERT begins the exchange and puts PAD at position 0, ATT_RELEASE ends it. -/
def Obligations.HandshakeLineBracketsTheExchange : Prop :=
  ∀ s : State,
    (s.csn = true → s.att = false →
      ∃ t, exec .attAssert s = .next t ∧ t.att = true ∧ t.padK = 0 ∧ t.trace = s.trace ++ [.att true] ∧
        t.csn = s.csn ∧ t.ce = s.ce ∧ t.faultSig = s.faultSig ∧ t.ret = s.ret ∧ microFrame s t ∧ sameMemory s t) ∧
    (s.att = true →
      ∃ t, exec .attRelease s = .next t ∧ t.att = false ∧ t.padK = s.padK ∧ t.trace = s.trace ++ [.att false] ∧
        t.csn = s.csn ∧ t.ce = s.ce ∧ t.faultSig = s.faultSig ∧ t.ret = s.ret ∧ microFrame s t ∧ sameMemory s t)

/-- R108, R109: FAULT_ON and FAULT_OFF drive the diagnostic signal; they have no guard. -/
def Obligations.DiagnosticSignalIsDriven : Prop :=
  ∀ s : State,
    (∃ t, exec .faultOn s = .next t ∧ t.faultSig = true ∧ t.trace = s.trace ++ [.faultSig true] ∧ t.csn = s.csn ∧
      t.ce = s.ce ∧ t.att = s.att ∧ t.ret = s.ret ∧ t.padK = s.padK ∧ microFrame s t ∧ sameMemory s t) ∧
    (∃ t, exec .faultOff s = .next t ∧ t.faultSig = false ∧ t.trace = s.trace ++ [.faultSig false] ∧ t.csn = s.csn ∧
      t.ce = s.ce ∧ t.att = s.att ∧ t.ret = s.ret ∧ t.padK = s.padK ∧ microFrame s t ∧ sameMemory s t)

/-- R235, R233: every line operation against the bracket discipline is a fault, by name. -/
def Obligations.LineOperationsFaultOutsideTheirBracket : Prop :=
  ∀ s : State,
    (s.att = true → exec .csnEnable s = .fault .busContention) ∧
    (s.att = false → s.csn = false → exec .csnEnable s = .fault .selectNesting) ∧
    (s.csn = true → exec .csnDisable s = .fault .selectNesting) ∧
    (s.ce = true ∨ s.csn = false → exec .ceHigh s = .fault .selectNesting) ∧
    (s.ce = false → exec .ceLow s = .fault .selectNesting) ∧
    (s.csn = false → exec .attAssert s = .fault .busContention) ∧
    (s.csn = true → s.att = true → exec .attAssert s = .fault .selectNesting) ∧
    (s.att = false → exec .attRelease s = .fault .selectNesting)

/-! ## Radio register transfer -/

/-- R120: RADIO_XACT is one bracket with a settling wait before each of the n + 1 exchanges, 2n + 4 events; on IN it
returns the bytes after the first. -/
def Obligations.RadioXactIsOneBracket : Prop :=
  ∀ (first : Byte) (arg : XactArg) (s : State), s.csn = true → s.att = false → arg.len ≤ s.cfg.nMax →
    ∃ t got, exec (.radioXact first arg) s = .next t ∧ got.length = arg.len + 1 ∧
      t.trace = s.trace ++ xactEvents (first :: sentData s.cfg arg) got ∧
      (xactEvents (first :: sentData s.cfg arg) got).length = 2 * arg.len + 4 ∧
      (∀ n, arg = .inp n → t.ret = got.tail) ∧ (∀ data, arg = .out data → t.ret = s.ret) ∧
      t.padK = s.padK ∧ sameLines s t ∧ microFrame s t

/-- R72, R73, R121, R122, R236, R237: a transfer that is too long or whose address has the opcode bit is refused. -/
def Obligations.TransfersRefuseBadOperands : Prop :=
  ∀ s : State,
    (∀ first arg, s.cfg.nMax < arg.len → exec (.radioXact first arg) s = .refused .lenRange) ∧
    (∀ a data, a &&& s.cfg.wOpcode ≠ 0#8 → a ≠ s.cfg.regTxPayload →
      exec (.regWrite a data) s = .refused .addrHasOpcodeBit ∧
        exec (.radioWRegister a data) s = .refused .addrHasOpcodeBit) ∧
    (∀ a n, a &&& s.cfg.wOpcode ≠ 0#8 → a ≠ s.cfg.regRxPayload →
      exec (.regRead a n) s = .refused .addrHasOpcodeBit ∧
        exec (.radioRRegister a n) s = .refused .addrHasOpcodeBit) ∧
    (∀ a data, (a &&& s.cfg.wOpcode = 0#8 ∨ a = s.cfg.regTxPayload) → s.cfg.nMax < data.length →
      exec (.regWrite a data) s = .refused .lenRange ∧ exec (.radioWRegister a data) s = .refused .lenRange) ∧
    (∀ a n, (a &&& s.cfg.wOpcode = 0#8 ∨ a = s.cfg.regRxPayload) → s.cfg.nMax < n →
      exec (.regRead a n) s = .refused .lenRange ∧ exec (.radioRRegister a n) s = .refused .lenRange)

/-- R71, R121, R126: REG_WRITE sends `W_OPCODE | a` and then the data, in one bracket, and changes no register. -/
def Obligations.RegWriteSendsItsData : Prop :=
  ∀ (a : Byte) (data : List Byte) (s : State), s.csn = true → s.att = false →
    (a &&& s.cfg.wOpcode = 0#8 ∨ a = s.cfg.regTxPayload) → data.length ≤ s.cfg.nMax →
    ∃ t got, exec (.regWrite a data) s = .next t ∧ got.length = data.length + 1 ∧
      t.trace = s.trace ++ xactEvents ((s.cfg.wOpcode ||| a) :: data) got ∧
      t.ret = s.ret ∧ t.padK = s.padK ∧ sameLines s t ∧ microFrame s t

/-- R41, R49, R121: a write of a configuration register at its width is held by the radio, and every other register
of the map is as before, while nothing is in flight. -/
def Obligations.RegWriteIsHeldByTheRadio : Prop :=
  ∀ (a : Byte) (data : List Byte) (s : State), s.cfg.wf → s.csn = true → s.att = false → quiet s →
    a ∈ s.cfg.mapRegisters → a ≠ s.cfg.regStatus → regWidth s.cfg a = some data.length →
    ∃ t, exec (.regWrite a data) s = .next t ∧ Memory.read t.radio.rreg a.toNat = some data ∧
      (∀ b, b ≠ a.toNat → Memory.read t.radio.rreg b = Memory.read s.radio.rreg b) ∧
      t.radio.maxRt = s.radio.maxRt ∧ t.radio.f2 = s.radio.f2 ∧ t.radio.f3 = s.radio.f3 ∧
      t.radio.txq = s.radio.txq ∧ t.radio.rxq = s.radio.rxq ∧ t.radio.air = .idle

/-- R71, R73, R122, R126: REG_READ sends the address alone and then n no-op bytes, returns the n bytes received after
the first, and changes no register. -/
def Obligations.RegReadReturnsItsBytes : Prop :=
  ∀ (a : Byte) (n : Nat) (s : State), s.csn = true → s.att = false →
    (a &&& s.cfg.wOpcode = 0#8 ∨ a = s.cfg.regRxPayload) → n ≤ s.cfg.nMax →
    ∃ t r0, exec (.regRead a n) s = .next t ∧ t.ret.length = n ∧
      t.trace = s.trace ++ xactEvents (a :: List.replicate n s.cfg.radioNop) (r0 :: t.ret) ∧
      t.padK = s.padK ∧ sameLines s t ∧ microFrame s t

/-- R51: a read of a configuration register that holds a value returns that value, and changes no device state, while
nothing is in flight. -/
def Obligations.RegReadReturnsTheHeldValue : Prop :=
  ∀ (a : Byte) (bytes : List Byte) (s : State), s.cfg.wf → s.csn = true → s.att = false → quiet s →
    a ∈ s.cfg.mapRegisters → a ≠ s.cfg.regStatus → regWidth s.cfg a = some bytes.length →
    Memory.read s.radio.rreg a.toNat = some bytes →
    ∃ t, exec (.regRead a bytes.length) s = .next t ∧ t.ret = bytes ∧ sameMemory s t ∧
      t.radio.maxRt = s.radio.maxRt ∧ t.radio.f2 = s.radio.f2 ∧ t.radio.f3 = s.radio.f3 ∧
      t.radio.txq = s.radio.txq ∧ t.radio.rxq = s.radio.rxq

/-- R123: STATUS_RESET writes `STATUS_IRQ_MASK` to the status register, in every phase, and changes no register of the
block and none of the radio's configuration. -/
def Obligations.StatusResetIsOneWrite : Prop :=
  ∀ s : State, s.cfg.wf → s.csn = true → s.att = false →
    ∃ t got, exec .statusReset s = .next t ∧ got.length = 2 ∧
      t.trace = s.trace ++ xactEvents [s.cfg.wOpcode ||| s.cfg.regStatus, s.cfg.statusIrqMask] got ∧
      t.ret = s.ret ∧ t.padK = s.padK ∧ sameLines s t ∧ microFrame s t ∧ sameMemory s t

/-- R50, R123: the status reset clears all three flags and nothing else of the radio, and a second one changes nothing
more; and a status write of any byte clears the flags whose bits are set in it and leaves the others and everything else
of the radio, while nothing is in flight. -/
def Obligations.StatusResetClearsTheFlags : Prop :=
  ∀ s : State, s.cfg.wf → s.csn = true → s.att = false → quiet s → s.radio.sent = [] →
    s.radio.startedBusy = false →
    ∃ t u, exec .statusReset s = .next t ∧ exec .statusReset t = .next u ∧
      t.radio = { s.radio with maxRt := false, f2 := false, f3 := false } ∧ u.radio = t.radio ∧
      ∀ v, ∃ w, exec (.regWrite s.cfg.regStatus [v]) s = .next w ∧
        w.radio = { s.radio with maxRt := w.radio.maxRt, f2 := w.radio.f2, f3 := w.radio.f3 } ∧
        (w.radio.maxRt = true ↔ s.radio.maxRt = true ∧ v &&& s.cfg.statusMaxRtMask = 0#8) ∧
        (w.radio.f2 = true ↔ s.radio.f2 = true ∧ v &&& f2Mask s.cfg = 0#8) ∧
        (w.radio.f3 = true ↔ s.radio.f3 = true ∧ v &&& f3Mask s.cfg = 0#8)

/-- R124: STATUS_READ is one read of one byte; `st` takes the byte of the data exchange, not the first (D14). -/
def Obligations.StatusReadTakesTheDataByte : Prop :=
  ∀ s : State, s.cfg.wf → s.csn = true → s.att = false →
    ∃ t r0 b, exec .statusRead s = .next t ∧ t.st = some b ∧
      t.trace = s.trace ++ xactEvents [s.cfg.regStatus, s.cfg.radioNop] [r0, b] ∧
      t.cf = s.cf ∧ t.tf = s.tf ∧ t.rxp = s.rxp ∧ t.ret = s.ret ∧ t.padK = s.padK ∧
      sameLines s t ∧ sameControl s t ∧ sameFixed s t ∧ sameMemory s t

/-- R50: the sampled byte has the max-retries bit exactly when the flag is set, and each of the two other bits of
`STATUS_IRQ_MASK` exactly when `f2`, `f3` is, and the read changes no device state, while nothing is in flight. The three
masks are single bits and together the mask; which of the two others is `f2` is a parameter (log 7). -/
def Obligations.StatusReadSeesMaxRetries : Prop :=
  ∀ s : State, s.cfg.wf → s.csn = true → s.att = false → quiet s → s.radio.sent = [] →
    s.radio.startedBusy = false →
    ∃ t b, exec .statusRead s = .next t ∧ t.st = some b ∧
      (b &&& s.cfg.statusMaxRtMask ≠ 0#8 ↔ s.radio.maxRt = true) ∧
      (b &&& f2Mask s.cfg ≠ 0#8 ↔ s.radio.f2 = true) ∧ (b &&& f3Mask s.cfg ≠ 0#8 ↔ s.radio.f3 = true) ∧
      bitCount (f2Mask s.cfg) = 1 ∧ bitCount (f3Mask s.cfg) = 1 ∧
      s.cfg.statusMaxRtMask ||| f2Mask s.cfg ||| f3Mask s.cfg = s.cfg.statusIrqMask ∧ t.radio = s.radio

/-! ## Initialization -/

/-- R78, R140, R153: INIT writes the ten registers in the source's order, each in a bracket of its own, then waits, 77 events
in all, and sets `init_done`; it moves no other register and leaves the lines idle. -/
def Obligations.InitWritesInOrder : Prop :=
  ∀ s : State, s.cfg.wf → idleLines s → s.initDone = false →
    ∃ t es, exec .init s = .next t ∧ t.trace = s.trace ++ es ∧ es.length = 77 ∧
      radioBrackets none es =
        [[s.cfg.wOpcode ||| s.cfg.regEnAa, s.cfg.valEnAa],
          [s.cfg.wOpcode ||| s.cfg.regSetupRetr, s.cfg.valSetupRetr],
          [s.cfg.wOpcode ||| s.cfg.regEnRxaddr, s.cfg.valEnRxaddr],
          [s.cfg.wOpcode ||| s.cfg.regSetupAw, s.cfg.valSetupAw],
          [s.cfg.wOpcode ||| s.cfg.regRfCh, s.cfg.valRfCh],
          [s.cfg.wOpcode ||| s.cfg.regRfSetup, s.cfg.valRfSetup],
          (s.cfg.wOpcode ||| s.cfg.regRxAddr) :: s.cfg.rxAddr.toList,
          (s.cfg.wOpcode ||| s.cfg.regTxAddr) :: s.cfg.txAddr.toList,
          [s.cfg.wOpcode ||| s.cfg.regRxPw, s.cfg.valRxPw],
          [s.cfg.wOpcode ||| s.cfg.regConfig,
            s.cfg.configBase ||| s.cfg.pwrUpMask ||| (if s.cfg.role = .rx then s.cfg.primRxMask else 0x00#8)]] ∧
      es.getLast? = some (.wait .tInitSettle) ∧ t.initDone = true ∧ t.outcome = s.outcome ∧ t.phase = s.phase ∧
      t.seq = s.seq ∧ t.ret = s.ret ∧ t.padK = s.padK ∧ sameLines s t ∧ sameData s t ∧ sameFixed s t

/-- R141 to R150 (device effects), R49, R78: after INIT the radio holds the ten values, it is started and selects the
configured role (R53, R54), and every other register is as before, while nothing is in flight. -/
def Obligations.InitConfiguresTheRadio : Prop :=
  ∀ s : State, s.cfg.wf → idleLines s → s.initDone = false → s.radio.air = .idle →
    ∃ t, exec .init s = .next t ∧
      (∀ w ∈ initWrites s.cfg, Memory.read t.radio.rreg w.1.toNat = some w.2) ∧
      (∀ b, (∀ w ∈ initWrites s.cfg, b ≠ w.1.toNat) → Memory.read t.radio.rreg b = Memory.read s.radio.rreg b) ∧
      t.radio.txq = s.radio.txq ∧ t.radio.air = .idle ∧ chipStarted t.cfg t.radio = true ∧
      (s.cfg.role = .tx → selectsTx t.cfg t.radio = true ∧ selectsRx t.cfg t.radio = false) ∧
      (s.cfg.role = .rx → selectsRx t.cfg t.radio = true ∧ selectsTx t.cfg t.radio = false)

/-! ## Transmit and receive -/

/-- R160, R74, R52: FLUSH_TX sends the command byte alone, and the radio's queue is then empty, while nothing is in
flight. -/
def Obligations.FlushTxEmptiesTheQueue : Prop :=
  ∀ s : State, s.cfg.wf → s.csn = true → s.att = false →
    ∃ t r0, exec .flushTx s = .next t ∧ t.trace = s.trace ++ xactEvents [s.cfg.cmdFlushTx] [r0] ∧
      t.ret = s.ret ∧ t.padK = s.padK ∧ sameLines s t ∧ microFrame s t ∧
      (quiet s → t.radio.txq = [] ∧ t.radio.air = .idle ∧ t.radio.maxRt = s.radio.maxRt ∧ sameMemory s t)

/-- R161, R74, R52: W_TX_PAYLOAD sends the write-payload command and the five bytes in index order, and the radio
queues them, while nothing is in flight. -/
def Obligations.WTxPayloadQueuesThePayload : Prop :=
  ∀ (p : Bytes5) (s : State), s.cfg.wf → s.csn = true → s.att = false →
    ∃ t got, exec (.wTxPayload p.toList) s = .next t ∧ got.length = 6 ∧
      t.trace = s.trace ++
        xactEvents [s.cfg.wOpcode ||| s.cfg.regTxPayload, p.b0, p.b1, p.b2, p.b3, p.b4] got ∧
      t.ret = s.ret ∧ t.padK = s.padK ∧ sameLines s t ∧ microFrame s t ∧
      (quiet s → t.radio.txq = s.radio.txq ++ [p] ∧ t.radio.air = .idle ∧ t.radio.maxRt = s.radio.maxRt ∧
        sameMemory s t)

/-- R162: TRANSMIT flushes, loads, waits, pulses the enable line and waits, 23 events; it writes no data register and
no outcome. -/
def Obligations.TransmitFlushesLoadsAndPulses : Prop :=
  ∀ (p : Bytes5) (s : State), s.cfg.wf → readyTx s →
    ∃ t r0 got es, exec (.transmit p.toList) s = .next t ∧ got.length = 6 ∧ t.trace = s.trace ++ es ∧
      es = xactEvents [s.cfg.cmdFlushTx] [r0] ++
        xactEvents [s.cfg.wOpcode ||| s.cfg.regTxPayload, p.b0, p.b1, p.b2, p.b3, p.b4] got ++
        [.wait .tTxPre, .ce true, .wait .tCePulse, .ce false, .wait .tTxPost] ∧ es.length = 23 ∧
      t.ret = s.ret ∧ t.padK = s.padK ∧ sameLines s t ∧ microFrame s t ∧
      (quiet s → chipStarted s.cfg s.radio = true → selectsTx s.cfg s.radio = true → sameMemory s t)

/-- R165, R74, R52, R16: R_RX_PAYLOAD puts the five bytes received after the first in `rxp`, which exists in the receiver
role only; they are the head of the radio's receive queue, which is removed, if there is one and nothing is in flight.
That a transmitter's block drops them and runs the transaction is the model's choice (log 34). -/
def Obligations.RRxPayloadTakesTheHead : Prop :=
  ∀ s : State, s.cfg.wf → s.csn = true → s.att = false →
    ∃ t r0 q, exec .rRxPayload s = .next t ∧
      (s.cfg.role = .rx → t.rxp = some q) ∧ (s.cfg.role = .tx → t.rxp = s.rxp) ∧
      t.trace = s.trace ++ xactEvents (s.cfg.regRxPayload :: List.replicate 5 s.cfg.radioNop) (r0 :: q.toList) ∧
      t.cf = s.cf ∧ t.tf = s.tf ∧ t.st = s.st ∧ t.ret = s.ret ∧ t.padK = s.padK ∧ sameLines s t ∧
      sameControl s t ∧ sameFixed s t ∧
      (quiet s → sameMemory s t ∧ t.radio.rxq = s.radio.rxq.tail ∧ ∀ p ps, s.radio.rxq = p :: ps → q = p)

/-- R166: RECEIVE listens for a fixed window, reads the payload whether or not one came, and resets the status, 23
events. -/
def Obligations.ReceiveListensReadsAndResets : Prop :=
  ∀ s : State, s.cfg.wf → idleLines s → s.initDone = true → s.cfg.role = .rx →
    ∃ t r0 q got es, exec .receive s = .next t ∧ t.rxp = some q ∧ got.length = 2 ∧ t.trace = s.trace ++ es ∧
      es = [.ce true, .wait .tRxListen, .ce false] ++
        xactEvents (s.cfg.regRxPayload :: List.replicate 5 s.cfg.radioNop) (r0 :: q.toList) ++
        xactEvents [s.cfg.wOpcode ||| s.cfg.regStatus, s.cfg.statusIrqMask] got ∧ es.length = 23 ∧
      t.cf = s.cf ∧ t.tf = s.tf ∧ t.st = s.st ∧ t.ret = s.ret ∧ t.padK = s.padK ∧ sameLines s t ∧
      sameControl s t ∧ sameFixed s t ∧
      (chipStarted s.cfg s.radio = true → selectsRx s.cfg s.radio = true → s.radio.maxRt = false →
        s.radio.air = .idle → sameMemory s t)

/-! ## Controller poll -/

/-- R180, R182 to R187: POLL exchanges the nine constant bytes inside one handshake bracket, 20 events, and decodes the
nine returned bytes: the identity as received, the buttons and the axes inverted. -/
def Obligations.PollDecodesTheNineBytes : Prop :=
  ∀ s : State, s.csn = true → s.att = false →
    ∃ t r0 r1 r2 r3 r4 r5 r6 r7 r8 buttons, exec .poll s = .next t ∧
      [r0, r1, r2, r3, r4, r5, r6, r7, r8] = answersFrom s 9 ∧
      t.trace = s.trace ++ (.att true :: exchangeEvents .tPadSettle
        [0x01#8, 0x42#8, 0x00#8, 0xFF#8, 0xFF#8, 0xFF#8, 0xFF#8, 0xFF#8, 0xFF#8]
        [r0, r1, r2, r3, r4, r5, r6, r7, r8] ++ [.att false]) ∧
      t.cf = ⟨some r1, some buttons, some (r5 ^^^ 0xFF#8), some (r6 ^^^ 0xFF#8), some (r7 ^^^ 0xFF#8),
        some (r8 ^^^ 0xFF#8)⟩ ∧
      buttons.toNat = (r3 ^^^ 0xFF#8).toNat * 256 + (r4 ^^^ 0xFF#8).toNat ∧
      t.padK = 9 ∧ t.tf = s.tf ∧ t.st = s.st ∧ t.rxp = s.rxp ∧ t.ret = s.ret ∧ sameLines s t ∧ sameControl s t ∧
      sameFixed s t ∧ sameMemory s t

/-! ## The bridge loop -/

/-- R201, R84, R232: PACK puts the low byte, the high byte, left X, left Y and the reserved zero in `tf`, changes
nothing else and emits nothing; a register it reads that holds no value is refused. -/
def Obligations.PackBuildsTheTelemetryFrame : Prop :=
  ∀ s : State,
    (∀ b lx ly, s.cf.buttons = some b → s.cf.lx = some lx → s.cf.ly = some ly →
      ∃ f, exec .pack s = .next { s with tf := some f } ∧ f.b0.toNat = b.toNat % 256 ∧
        f.b1.toNat = b.toNat / 256 ∧ f.b2 = lx ∧ f.b3 = ly ∧ f.b4 = 0#8) ∧
    (s.cf.buttons = none ∨ s.cf.lx = none ∨ s.cf.ly = none → exec .pack s = .refused .uninitRead)

/-- R202: the boundary frame of the source. -/
def Obligations.PackBoundaryFrame : Prop :=
  ∀ s : State, s.cf.buttons = some 0xFFFF#16 → s.cf.lx = some 0x00#8 → s.cf.ly = some 0xFF#8 →
    exec .pack s = .next { s with tf := some ⟨0xFF#8, 0xFF#8, 0x00#8, 0xFF#8, 0x00#8⟩ }

/-- R203, R204, R244: FAULTCHECK samples the status once; with the one bit clear it ends there, with the bit set it
raises the signal, resets the status once, holds and clears the signal. With nothing in flight the bit is the radio's
failure flag (R50). Phase and data registers but `st` are as before, and so is the radio's configuration. -/
def Obligations.FaultcheckSamplesAndRecovers : Prop :=
  ∀ s : State, s.cfg.wf → idleLines s → s.initDone = true →
    ∃ t r0 b got, exec .faultcheck s = .next t ∧ t.st = some b ∧ got.length = 2 ∧
      (quiet s → (b &&& s.cfg.statusMaxRtMask ≠ 0#8 ↔ s.radio.maxRt = true)) ∧
      (b &&& s.cfg.statusMaxRtMask = 0#8 → t.outcome = .notFailed ∧
        t.trace = s.trace ++ xactEvents [s.cfg.regStatus, s.cfg.radioNop] [r0, b]) ∧
      (b &&& s.cfg.statusMaxRtMask ≠ 0#8 → t.outcome = .maxRt ∧
        t.trace = s.trace ++ xactEvents [s.cfg.regStatus, s.cfg.radioNop] [r0, b] ++ [.faultSig true] ++
          xactEvents [s.cfg.wOpcode ||| s.cfg.regStatus, s.cfg.statusIrqMask] got ++
          [.wait .tFaultHold, .faultSig false]) ∧
      t.cf = s.cf ∧ t.tf = s.tf ∧ t.rxp = s.rxp ∧ t.initDone = s.initDone ∧ t.phase = s.phase ∧ t.seq = s.seq ∧
      t.ret = s.ret ∧ t.padK = s.padK ∧ sameLines s t ∧ sameFixed s t ∧ sameMemory s t

/-- R205, R207, R209, R80, R84: one CYCLE polls once, transmits the frame packed from that poll's bytes, samples the
status once and resets it exactly once if the bit is set and not otherwise; 50 events without a fault and 59 with one. -/
def Obligations.CycleForwardsThePolledFrame : Prop :=
  ∀ s : State, s.cfg.wf → readyTx s →
    ∃ t es r0 r1 r2 r3 r4 r5 r6 r7 r8 b, exec .cycle s = .next t ∧ t.trace = s.trace ++ es ∧
      [r0, r1, r2, r3, r4, r5, r6, r7, r8] = answersFrom s 9 ∧
      pollBrackets none es = [[r0, r1, r2, r3, r4, r5, r6, r7, r8]] ∧
      radioBrackets none es =
        [[s.cfg.cmdFlushTx], [s.cfg.wOpcode ||| s.cfg.regTxPayload, ~~~r4, ~~~r3, ~~~r7, ~~~r8, 0#8],
          [s.cfg.regStatus, s.cfg.radioNop]] ++
        (if b &&& s.cfg.statusMaxRtMask = 0#8 then []
          else [[s.cfg.wOpcode ||| s.cfg.regStatus, s.cfg.statusIrqMask]]) ∧
      es.length = (if b &&& s.cfg.statusMaxRtMask = 0#8 then 50 else 59) ∧
      t.tf = some ⟨~~~r4, ~~~r3, ~~~r7, ~~~r8, 0#8⟩ ∧ t.st = some b ∧
      t.outcome = (if b &&& s.cfg.statusMaxRtMask = 0#8 then .notFailed else .maxRt) ∧
      t.phase = .polling ∧ t.cf = decodeFrame [r0, r1, r2, r3, r4, r5, r6, r7, r8] ∧ t.rxp = s.rxp ∧
      t.initDone = s.initDone ∧ t.seq = s.seq ∧ t.ret = s.ret ∧ sameLines s t ∧ sameFixed s t ∧
      (quiet s → chipStarted s.cfg s.radio = true → selectsTx s.cfg s.radio = true → sameMemory s t)

/-- R285: the waits of one CYCLE sum to the formula of the rule, the byte exchanges not counted. -/
def Obligations.CycleLeastTime : Prop :=
  ∀ s : State, s.cfg.wf → readyTx s →
    ∃ t es b, exec .cycle s = .next t ∧ t.trace = s.trace ++ es ∧ t.st = some b ∧
      waitTime s.cfg es =
        9 * s.cfg.durations.padSettle + 9 * s.cfg.durations.settle + s.cfg.durations.txPre +
          s.cfg.durations.cePulse + s.cfg.durations.txPost + s.cfg.durations.cycle +
          (if b &&& s.cfg.statusMaxRtMask = 0#8 then 0 else 2 * s.cfg.durations.settle + s.cfg.durations.faultHold)

/-- R209: two consecutive passes of the loop send, in order, the frame of the first poll and the frame of the second,
with none dropped, whatever the status samples say. -/
def Obligations.TwoCyclesSendTwoFramesInOrder : Prop :=
  ∀ s : State, s.cfg.wf → readyTx s → s.seq = .loop → s.inputs = [] →
    ∃ t u es q0 q1 q2 q3 q4 q5 q6 q7 q8 r0 r1 r2 r3 r4 r5 r6 r7 r8, step s = .next t ∧ step t = .next u ∧
      u.trace = s.trace ++ es ∧
      pollBrackets none es = [[q0, q1, q2, q3, q4, q5, q6, q7, q8], [r0, r1, r2, r3, r4, r5, r6, r7, r8]] ∧
      (radioBrackets none es).filter (fun sent => sent.head? == some (s.cfg.wOpcode ||| s.cfg.regTxPayload)) =
        [[s.cfg.wOpcode ||| s.cfg.regTxPayload, ~~~q4, ~~~q3, ~~~q7, ~~~q8, 0#8],
          [s.cfg.wOpcode ||| s.cfg.regTxPayload, ~~~r4, ~~~r3, ~~~r7, ~~~r8, 0#8]] ∧
      readyTx u ∧ u.seq = .loop ∧ u.inputs = []

/-- R208, R262: RUN sets the phase, runs INIT once and enters the loop; the machine right after reset does so in its
first step. -/
def Obligations.RunInitialisesAndEntersTheLoop : Prop :=
  (∀ s : State, s.cfg.wf → readyTx { s with initDone := true } → s.initDone = false →
    ∃ t es, exec .run s = .next t ∧ t.phase = .init ∧ t.seq = .loop ∧ t.initDone = true ∧ t.trace = s.trace ++ es ∧
      es.length = 77 ∧ t.outcome = s.outcome ∧ t.ret = s.ret ∧ t.padK = s.padK ∧ sameLines s t ∧ sameData s t ∧
      sameFixed s t ∧
      (s.radio.air = .idle → (∀ w ∈ initWrites s.cfg, Memory.read t.radio.rreg w.1.toNat = some w.2) ∧
        ∀ b, (∀ w ∈ initWrites s.cfg, b ≠ w.1.toNat) →
          Memory.read t.radio.rreg b = Memory.read s.radio.rreg b)) ∧
  (∃ t, step State.reset = .next t ∧ t.phase = .init ∧ t.seq = .loop ∧ t.initDone = true ∧ t.trace.length = 77)

/-- R236 (of W_TX_PAYLOAD and TRANSMIT), R238, R239, R240: the refusals of initialization, transmit, receive and the
loop, in the order of the rules; each operation refuses before it does anything. -/
def Obligations.OperationsRefuseByRule : Prop :=
  ∀ (p : List Byte) (s : State),
    (s.initDone = true → exec .init s = .refused .reinit) ∧
    (p.length ≠ 5 → exec (.wTxPayload p) s = .refused .lenRange) ∧
    (s.initDone = false → exec (.transmit p) s = .refused .notInitialised ∧ exec .receive s = .refused .notInitialised ∧
      exec .faultcheck s = .refused .notInitialised ∧ exec .cycle s = .refused .notInitialised) ∧
    (s.initDone = true → s.cfg.role = .rx →
      exec (.transmit p) s = .refused .roleMismatch ∧ exec .cycle s = .refused .roleMismatch) ∧
    (s.cfg.role = .rx → exec .run s = .refused .roleMismatch) ∧
    (s.initDone = true → s.cfg.role = .tx → exec .receive s = .refused .roleMismatch ∧
      exec .run s = .refused .reinit ∧ (p.length ≠ 5 → exec (.transmit p) s = .refused .lenRange))

/-- R241, R87: a request with the reserved operation-select code 0b1111 is refused in every state. That it is so whatever
bytes follow the code is the model's choice (log 14). -/
def Obligations.ReservedCodeIsRefused : Prop :=
  ∀ s : State, exec .opselReserved s = .refused .unknownOp ∧
    ∀ ops rest, s.inputs = .request ⟨.opsel, 0b1111#8 :: ops⟩ :: rest → step s = .refused .unknownOp

/-! ## Wire formats -/

/-- R72, R73: a register write and a register read as they stand on the wire. What such a row does as an instruction is
the model's choice (log 17). -/
def Obligations.RegisterRowsAreOneTransaction : Prop :=
  ∀ (a : Byte) (s : State), s.csn = true → s.att = false →
    (∀ data, (a &&& s.cfg.wOpcode = 0#8 ∨ a = s.cfg.regTxPayload) → data.length ≤ s.cfg.nMax →
      ∃ t got, exec (.radioWRegister a data) s = .next t ∧ got.length = data.length + 1 ∧
        t.trace = s.trace ++ xactEvents ((s.cfg.wOpcode ||| a) :: data) got ∧
        t.ret = s.ret ∧ t.padK = s.padK ∧ sameLines s t ∧ microFrame s t ∧
        (s.cfg.wf → quiet s → a ∈ s.cfg.mapRegisters → a ≠ s.cfg.regStatus → regWidth s.cfg a = some data.length →
          Memory.read t.radio.rreg a.toNat = some data ∧
            ∀ b, b ≠ a.toNat → Memory.read t.radio.rreg b = Memory.read s.radio.rreg b)) ∧
    (∀ n, (a &&& s.cfg.wOpcode = 0#8 ∨ a = s.cfg.regRxPayload) → n ≤ s.cfg.nMax →
      ∃ t r0, exec (.radioRRegister a n) s = .next t ∧ t.ret.length = n ∧
        t.trace = s.trace ++ xactEvents (a :: List.replicate n s.cfg.radioNop) (r0 :: t.ret) ∧
        t.padK = s.padK ∧ sameLines s t ∧ microFrame s t ∧
        (s.cfg.wf → quiet s → a ∈ s.cfg.mapRegisters → regWidth s.cfg a = some n → sameMemory s t))

/-- R74: the three transactions that are no plain register access, as they stand on the wire, and the frame of R84 sent
as the payload. What such a row does as an instruction is the model's choice (log 17, log 19), and so is that the bytes
of a payload read are dropped in the transmitter role, where there is no `rxp` (log 34). -/
def Obligations.CommandRowsAreOneTransaction : Prop :=
  ∀ s : State, s.cfg.wf → s.csn = true → s.att = false →
    (∃ t r0, exec .radioFlushTx s = .next t ∧ t.trace = s.trace ++ xactEvents [s.cfg.cmdFlushTx] [r0] ∧
      t.ret = s.ret ∧ t.padK = s.padK ∧ sameLines s t ∧ microFrame s t ∧
      (quiet s → t.radio.txq = [] ∧ sameMemory s t)) ∧
    (∀ p, ∃ t got, exec (.radioWTxPayload p) s = .next t ∧ got.length = 6 ∧
      t.trace = s.trace ++
        xactEvents [s.cfg.wOpcode ||| s.cfg.regTxPayload, p.b0, p.b1, p.b2, p.b3, p.b4] got ∧
      t.ret = s.ret ∧ t.padK = s.padK ∧ sameLines s t ∧ microFrame s t ∧
      (quiet s → t.radio.txq = s.radio.txq ++ [p] ∧ sameMemory s t)) ∧
    (∃ t r0 q, exec .radioRRxPayload s = .next t ∧
      (s.cfg.role = .rx → t.rxp = some q) ∧ (s.cfg.role = .tx → t.rxp = s.rxp) ∧
      t.trace = s.trace ++ xactEvents (s.cfg.regRxPayload :: List.replicate 5 s.cfg.radioNop) (r0 :: q.toList) ∧
      t.cf = s.cf ∧ t.tf = s.tf ∧ t.st = s.st ∧ t.ret = s.ret ∧ t.padK = s.padK ∧ sameLines s t ∧
      sameControl s t ∧ sameFixed s t ∧ (quiet s → sameMemory s t)) ∧
    (∀ l h x y, ∃ t got, exec (.tframe l h x y) s = .next t ∧ got.length = 6 ∧
      t.trace = s.trace ++ xactEvents [s.cfg.wOpcode ||| s.cfg.regTxPayload, l, h, x, y, 0#8] got ∧
      t.ret = s.ret ∧ t.padK = s.padK ∧ sameLines s t ∧ microFrame s t ∧
      (quiet s → t.radio.txq = s.radio.txq ++ [⟨l, h, x, y, 0#8⟩] ∧ sameMemory s t))

/-- R80, R81, R83, R181, R182, R183: inside an exchange each controller row waits and sends the byte of its position; the
returned byte is ignored at positions 0 and 2, handed over as received at position 1, and inverted at 3 to 8; the row
writes no register, since POLL alone writes `cf` (R245). What such a row does as an instruction is the model's choice
(log 18). -/
def Obligations.ControllerRowsAreOneExchange : Prop :=
  ∀ s : State, s.csn = true → s.att = true →
    (∃ t, exec .padPollCmd s = .next t ∧ t.trace = s.trace ++ [.wait .tPadSettle, .xfer 0x01#8 (answerAt s 0)] ∧
      t.ret = s.ret ∧ (s.padK < 9 → t.padK = s.padK + 1) ∧ sameLines s t ∧ microFrame s t ∧ sameMemory s t) ∧
    (∃ t, exec .padReadyCmd s = .next t ∧ t.trace = s.trace ++ [.wait .tPadSettle, .xfer 0x42#8 (answerAt s 0)] ∧
      t.ret = [answerAt s 0] ∧ (s.padK < 9 → t.padK = s.padK + 1) ∧ sameLines s t ∧ microFrame s t ∧ sameMemory s t) ∧
    (∃ t, exec .padFill s = .next t ∧ t.trace = s.trace ++ [.wait .tPadSettle, .xfer 0x00#8 (answerAt s 0)] ∧
      t.ret = s.ret ∧ (s.padK < 9 → t.padK = s.padK + 1) ∧ sameLines s t ∧ microFrame s t ∧ sameMemory s t) ∧
    (∀ f, ∃ t, exec (.padNop f) s = .next t ∧
      t.trace = s.trace ++ [.wait .tPadSettle, .xfer 0xFF#8 (answerAt s 0)] ∧
      t.ret = [answerAt s 0 ^^^ 0xFF#8] ∧ (s.padK < 9 → t.padK = s.padK + 1) ∧ sameLines s t ∧ microFrame s t ∧
      sameMemory s t)

/-- R77, R203, R204, R239: STATUS_BYTE is a FAULTCHECK whose sample agrees with the given byte in every bit outside
`STATUS_IRQ_MASK`, those bits being RADIO's flags (R50): `st` is written by the one status read, its one tested bit decides
the outcome, and if it is set the pattern `STATUS_IRQ_MASK` is written in the recovery; before INIT it is refused. What
the row does as an instruction is the model's choice (log 20). -/
def Obligations.StatusByteRowIsClassified : Prop :=
  ∀ (b : Byte) (s : State), (s.initDone = false → exec (.statusByte b) s = .refused .notInitialised) ∧
    (s.cfg.wf → idleLines s → s.initDone = true →
      ∃ t r0 v got, exec (.statusByte b) s = .next t ∧ t.st = some v ∧ got.length = 2 ∧
        v &&& ~~~s.cfg.statusIrqMask = b &&& ~~~s.cfg.statusIrqMask ∧
        (quiet s → (v &&& s.cfg.statusMaxRtMask ≠ 0#8 ↔ s.radio.maxRt = true)) ∧
        (v &&& s.cfg.statusMaxRtMask = 0#8 → t.outcome = .notFailed ∧
          t.trace = s.trace ++ xactEvents [s.cfg.regStatus, s.cfg.radioNop] [r0, v]) ∧
        (v &&& s.cfg.statusMaxRtMask ≠ 0#8 → t.outcome = .maxRt ∧
          t.trace = s.trace ++ xactEvents [s.cfg.regStatus, s.cfg.radioNop] [r0, v] ++ [.faultSig true] ++
            xactEvents [s.cfg.wOpcode ||| s.cfg.regStatus, s.cfg.statusIrqMask] got ++
            [.wait .tFaultHold, .faultSig false]) ∧
        t.cf = s.cf ∧ t.tf = s.tf ∧ t.rxp = s.rxp ∧ t.initDone = s.initDone ∧ t.phase = s.phase ∧ t.seq = s.seq ∧
        t.ret = s.ret ∧ t.padK = s.padK ∧ sameLines s t ∧ sameFixed s t ∧ sameMemory s t)
end

