-- ==== Sys2Proof/Laws/Encoding.lean ====
section
/-! SUPPORT. What the first byte of a transaction says under the constraints of R5 (spec/30_encoding.md R71, R89, R91). -/

namespace Sys2Proof

theorem wOpcode_ne_zero {P : Config} (h : P.wf) : P.wOpcode ≠ 0#8 := by
  intro h0
  have h1 := h.1.1
  rw [h0] at h1
  revert h1
  decide

/-- R71: the opcode bit is set in a write's first byte. -/
theorem writeFirst_and_opcode (P : Config) (a : Byte) : writeFirst P a &&& P.wOpcode = P.wOpcode := by
  unfold writeFirst
  ext i hi
  simp only [BitVec.getElem_and, BitVec.getElem_or]
  cases P.wOpcode[i] <;> simp

/-- R71: the address survives the OR with the opcode. -/
theorem writeFirst_and_not_opcode {P : Config} {a : Byte} (h : a &&& P.wOpcode = 0#8) :
    writeFirst P a &&& ~~~P.wOpcode = a := by
  unfold writeFirst
  ext i hi
  have hb : (a &&& P.wOpcode)[i] = false := by rw [h]; simp
  simp only [BitVec.getElem_and, BitVec.getElem_or, BitVec.getElem_not] at hb ⊢
  revert hb
  cases P.wOpcode[i] <;> cases a[i] <;> simp

/-- R71, R91: `RD_OPCODE | a = a` always. -/
@[simp] theorem readFirst_eq (a : Byte) : readFirst a = a := by simp [readFirst, rdOpcode]

theorem classify_flush (P : Config) : classify P P.cmdFlushTx = .flush := by simp [classify]

theorem classify_payloadWrite {P : Config} (h : P.wf) : classify P (writeFirst P P.regTxPayload) = .payloadWrite := by
  have hn := h.2.2.2.1.1
  simp only [Config.commandBytes, List.nodup_cons, List.mem_cons, not_or] at hn
  have h1 : writeFirst P P.regTxPayload ≠ P.cmdFlushTx := fun e => hn.1.1 e.symm
  rw [classify, if_neg h1, if_pos rfl]

theorem classify_payloadRead {P : Config} (h : P.wf) : classify P (readFirst P.regRxPayload) = .payloadRead := by
  have hn := h.2.2.2.1.1
  simp only [Config.commandBytes, List.nodup_cons, List.mem_cons, not_or] at hn
  have h1 : readFirst P.regRxPayload ≠ P.cmdFlushTx := fun e => hn.1.2.1 e.symm
  have h2 : readFirst P.regRxPayload ≠ writeFirst P P.regTxPayload := fun e => hn.2.1.1 e.symm
  rw [classify, if_neg h1, if_neg h2, if_pos rfl]

/-- R72, R89: the first byte of a write is read back as a write of the same register. -/
theorem classify_writeFirst {P : Config} {a : Byte} (h : P.wf) (ha : a &&& P.wOpcode = 0#8)
    (hc : writeFirst P a ∉ P.commandBytes) : classify P (writeFirst P a) = .regWrite a := by
  simp only [Config.commandBytes, List.mem_cons, not_or] at hc
  have h2 : writeFirst P a ≠ writeFirst P P.regTxPayload := hc.2.1
  have h3 : writeFirst P a ≠ readFirst P.regRxPayload := hc.2.2.1
  rw [classify, if_neg hc.1, if_neg h2, if_neg h3, if_pos, writeFirst_and_not_opcode ha]
  rw [writeFirst_and_opcode]
  exact wOpcode_ne_zero h

/-- R73, R89: the first byte of a read is read back as a read of the same register. -/
theorem classify_readFirst {P : Config} {a : Byte} (ha : a &&& P.wOpcode = 0#8) (hc : a ∉ P.commandBytes) :
    classify P (readFirst a) = .regRead a := by
  simp only [Config.commandBytes, List.mem_cons, not_or] at hc
  have h2 : a ≠ writeFirst P P.regTxPayload := hc.2.1
  have h3 : a ≠ readFirst P.regRxPayload := hc.2.2.1
  rw [readFirst_eq, classify, if_neg hc.1, if_neg h2, if_neg h3, if_neg]
  simpa using ha

/-- A register of the map, written: its first byte is read back as its write. -/
theorem classify_map_write {P : Config} {a : Byte} (h : P.wf) (ha : a ∈ P.mapRegisters) :
    classify P (writeFirst P a) = .regWrite a :=
  classify_writeFirst h (h.1.2.2 a ha) (h.2.2.2.1.2 a ha).2

/-- A register of the map, read: its first byte is read back as its read. -/
theorem classify_map_read {P : Config} {a : Byte} (h : P.wf) (ha : a ∈ P.mapRegisters) :
    classify P (readFirst a) = .regRead a :=
  classify_readFirst (h.1.2.2 a ha) (h.2.2.2.1.2 a ha).1

theorem addressAllowed_map {P : Config} {a : Byte} (h : P.wf) (ha : a ∈ P.mapRegisters) (c : Byte) :
    addressAllowed P c a = true := by
  simp [addressAllowed, h.1.2.2 a ha]

theorem addressAllowed_self (P : Config) (c : Byte) : addressAllowed P c c = true := by
  simp [addressAllowed]

@[simp] theorem ofList?_toList (p : Bytes5) : Bytes5.ofList? p.toList = some p := rfl

@[simp] theorem toList_length (p : Bytes5) : p.toList.length = 5 := rfl

/-- Exactly the sequences of five bytes are five bytes. -/
theorem ofList?_of_length {l : List Byte} (h : l.length = 5) : ∃ p, Bytes5.ofList? l = some p ∧ p.toList = l := by
  match l, h with
  | [a, b, c, d, e], _ => exact ⟨⟨a, b, c, d, e⟩, rfl, rfl⟩

end Sys2Proof
end

