-- ==== Sys2Proof/Laws/Flags.lean ====
section
/-! SUPPORT. The status byte: the three masks of R50 are single, disjoint bits and together `STATUS_IRQ_MASK`, and what
the byte of a status read says of each flag. -/

namespace Sys2Proof.Machine

theorem bitCount_eq_one (b : Byte) :
    bitCount b = 1 → b ∈ [1#8, 2#8, 4#8, 8#8, 16#8, 32#8, 64#8, 128#8] := by
  revert b
  decide +kernel

/-- The split of a three-bit mask at one of its bits: the lowest other bit and the rest. -/
theorem mask_split : ∀ b ∈ [1#8, 2#8, 4#8, 8#8, 16#8, 32#8, 64#8, 128#8], ∀ a : Byte, bitCount a = 3 → b &&& a = b →
    bitCount (lowestBit (a &&& ~~~b)) = 1 ∧ bitCount (a &&& ~~~b &&& ~~~(lowestBit (a &&& ~~~b))) = 1 ∧
      b ||| lowestBit (a &&& ~~~b) ||| (a &&& ~~~b &&& ~~~(lowestBit (a &&& ~~~b))) = a ∧
      b &&& lowestBit (a &&& ~~~b) = 0#8 ∧ b &&& (a &&& ~~~b &&& ~~~(lowestBit (a &&& ~~~b))) = 0#8 ∧
      lowestBit (a &&& ~~~b) &&& (a &&& ~~~b &&& ~~~(lowestBit (a &&& ~~~b))) = 0#8 := by
  decide +kernel

/-- What the constraints of R5 say of the three flag masks (R50). -/
structure FlagMasks (P : Config) : Prop where
  maxRt_one : bitCount P.statusMaxRtMask = 1
  f2_one : bitCount (f2Mask P) = 1
  f3_one : bitCount (f3Mask P) = 1
  union : P.statusMaxRtMask ||| f2Mask P ||| f3Mask P = P.statusIrqMask
  maxRt_f2 : P.statusMaxRtMask &&& f2Mask P = 0#8
  maxRt_f3 : P.statusMaxRtMask &&& f3Mask P = 0#8
  f2_f3 : f2Mask P &&& f3Mask P = 0#8

theorem flagMasks {P : Config} (hP : P.wf) : FlagMasks P := by
  obtain ⟨h1, h2, h3⟩ := hP.2.1
  obtain ⟨a1, a2, a3, a4, a5, a6⟩ := mask_split _ (bitCount_eq_one _ h2) _ h1 h3
  have e2 : f2Mask P = if P.f2IsUpper then
      P.statusIrqMask &&& ~~~P.statusMaxRtMask &&& ~~~(lowestBit (P.statusIrqMask &&& ~~~P.statusMaxRtMask))
      else lowestBit (P.statusIrqMask &&& ~~~P.statusMaxRtMask) := rfl
  have e3 : f3Mask P = if P.f2IsUpper then lowestBit (P.statusIrqMask &&& ~~~P.statusMaxRtMask)
      else P.statusIrqMask &&& ~~~P.statusMaxRtMask &&& ~~~(lowestBit (P.statusIrqMask &&& ~~~P.statusMaxRtMask)) :=
    rfl
  generalize lowestBit (P.statusIrqMask &&& ~~~P.statusMaxRtMask) = x at *
  generalize P.statusIrqMask &&& ~~~P.statusMaxRtMask &&& ~~~x = y at *
  cases hu : P.f2IsUpper <;> simp only [hu, if_true, Bool.false_eq_true, if_false] at e2 e3
  · exact ⟨h2, by rw [e2]; exact a1, by rw [e3]; exact a2, by rw [e2, e3]; exact a3, by rw [e2]; exact a4,
      by rw [e3]; exact a5, by rw [e2, e3]; exact a6⟩
  · exact ⟨h2, by rw [e2]; exact a2, by rw [e3]; exact a1,
      by rw [e2, e3, BitVec.or_assoc, BitVec.or_comm y x, ← BitVec.or_assoc]; exact a3,
      by rw [e2]; exact a5, by rw [e3]; exact a4, by rw [e2, e3, BitVec.and_comm]; exact a6⟩

theorem or_and_right (x y z : Byte) : (x ||| y) &&& z = (x &&& z) ||| (y &&& z) := by
  ext i hi
  simp [Bool.and_or_distrib_right]

/-- A mask inside another one is disjoint from everything outside it. -/
theorem outside_and {a b : Byte} (d : Byte) (h : b &&& a = b) : d &&& ~~~a &&& b = 0#8 := by
  rw [← h, BitVec.and_comm b a, ← BitVec.and_assoc, BitVec.and_assoc d, BitVec.and_comm (~~~a)]
  simp

@[simp] theorem maskIf_and (c : Bool) (m x : Byte) : maskIf c m &&& x = maskIf c (m &&& x) := by
  cases c <;> simp [maskIf]

@[simp] theorem maskIf_zero (c : Bool) : maskIf c 0#8 = 0#8 := by cases c <;> rfl

theorem maskIf_ne_zero {c : Bool} {m : Byte} (h : bitCount m = 1) : maskIf c m ≠ 0#8 ↔ c = true := by
  have hm : m ≠ 0#8 := by
    rintro rfl
    revert h
    decide
  cases c <;> simp [maskIf, hm]

/-- A mask is inside the union it is part of. -/
theorem and_union (b x y : Byte) : b &&& (b ||| x ||| y) = b ∧ x &&& (b ||| x ||| y) = x ∧ y &&& (b ||| x ||| y) = y := by
  refine ⟨?_, ?_, ?_⟩ <;> ext i hi <;> simp only [BitVec.getElem_and, BitVec.getElem_or] <;>
    cases b[i] <;> cases x[i] <;> cases y[i] <;> rfl

/-- R50, the whole of what a status byte says: each flag's bit is the flag, and every bit outside the mask is the draw. -/
theorem statusValue_spec {P : Config} (hP : P.wf) (r : Radio) (d : Byte) :
    (statusValue P r d &&& P.statusMaxRtMask ≠ 0#8 ↔ r.maxRt = true) ∧
      (statusValue P r d &&& f2Mask P ≠ 0#8 ↔ r.f2 = true) ∧
      (statusValue P r d &&& f3Mask P ≠ 0#8 ↔ r.f3 = true) ∧
      statusValue P r d &&& ~~~P.statusIrqMask = d &&& ~~~P.statusIrqMask := by
  obtain ⟨h1, h2, h3, hu, h12, h13, h23⟩ := flagMasks hP
  obtain ⟨u1, u2, u3⟩ := and_union P.statusMaxRtMask (f2Mask P) (f3Mask P)
  rw [hu] at u1 u2 u3
  have hout : ∀ m : Byte, m &&& P.statusIrqMask = m → m &&& ~~~P.statusIrqMask = 0#8 := by
    intro m hm
    rw [← hm, BitVec.and_assoc]
    simp
  have h21 := (BitVec.and_comm (f2Mask P) P.statusMaxRtMask).trans h12
  have h31 := (BitVec.and_comm (f3Mask P) P.statusMaxRtMask).trans h13
  have h32 := (BitVec.and_comm (f3Mask P) (f2Mask P)).trans h23
  refine ⟨?_, ?_, ?_, ?_⟩
  · rw [← maskIf_ne_zero (c := r.maxRt) h1]
    simp [statusValue, or_and_right, outside_and d u1, h21, h31]
  · rw [← maskIf_ne_zero (c := r.f2) h2]
    simp [statusValue, or_and_right, outside_and d u2, h12, h32]
  · rw [← maskIf_ne_zero (c := r.f3) h3]
    simp [statusValue, or_and_right, outside_and d u3, h13, h23]
  · simp [statusValue, or_and_right, hout _ u1, hout _ u2, hout _ u3, BitVec.and_assoc]

/-- The whole mask clears every flag (R50, R123). -/
theorem clearFlags_all {P : Config} (hP : P.wf) (r : Radio) :
    clearFlags P P.statusIrqMask r = { r with maxRt := false, f2 := false, f3 := false } := by
  obtain ⟨h1, h2, h3, hu, -⟩ := flagMasks hP
  obtain ⟨u1, u2, u3⟩ := and_union P.statusMaxRtMask (f2Mask P) (f3Mask P)
  rw [hu] at u1 u2 u3
  have hne : ∀ m : Byte, bitCount m = 1 → m &&& P.statusIrqMask = m → P.statusIrqMask &&& m ≠ 0#8 := by
    intro m hm hi
    rw [BitVec.and_comm, hi]
    exact (maskIf_ne_zero (c := true) hm).2 rfl
  simp [clearFlags, hne _ h1 u1, hne _ h2 u2, hne _ h3 u3]

/-- The value INIT gives CONFIG has the power-up bit, and the role bit exactly for the receiver (R78). -/
theorem valConfig_spec {P : Config} (hP : P.wf) :
    valConfig P &&& P.pwrUpMask ≠ 0#8 ∧ (P.role = .tx → valConfig P &&& P.primRxMask = 0#8) ∧
      (P.role = .rx → valConfig P &&& P.primRxMask ≠ 0#8) := by
  obtain ⟨h1, h2, hne, h0⟩ := hP.2.2.1
  have hdis : ∀ a ∈ [1#8, 2#8, 4#8, 8#8, 16#8, 32#8, 64#8, 128#8],
      ∀ b ∈ [1#8, 2#8, 4#8, 8#8, 16#8, 32#8, 64#8, 128#8], a ≠ b → a &&& b = 0#8 := by decide
  have hpb : P.pwrUpMask &&& P.primRxMask = 0#8 := hdis _ (bitCount_eq_one _ h1) _ (bitCount_eq_one _ h2) hne
  have hsub : ∀ m : Byte, m &&& (P.pwrUpMask ||| P.primRxMask) = m → P.configBase &&& m = 0#8 := by
    intro m hm
    rw [← hm, BitVec.and_comm m, ← BitVec.and_assoc, h0]
    simp
  have hb1 : P.configBase &&& P.pwrUpMask = 0#8 := by
    refine hsub _ ?_
    rw [BitVec.and_comm, or_and_right, BitVec.and_self, BitVec.and_comm, hpb]
    simp
  have hb2 : P.configBase &&& P.primRxMask = 0#8 := by
    refine hsub _ ?_
    rw [BitVec.and_comm, or_and_right, hpb, BitVec.and_self]
    simp
  have n1 : P.pwrUpMask ≠ 0#8 := (maskIf_ne_zero (c := true) h1).2 rfl
  have n2 : P.primRxMask ≠ 0#8 := (maskIf_ne_zero (c := true) h2).2 rfl
  have hpb' := (BitVec.and_comm P.primRxMask P.pwrUpMask).trans hpb
  cases hr : P.role <;> simp [valConfig, hr, or_and_right, hb1, hb2, hpb, hpb', n1, n2]

end Sys2Proof.Machine
end

