-- ==== Sys2Proof/Laws/State.lean ====
section
/-! SUPPORT. One lemma per field per update of State, true by `rfl`, so that no later proof unfolds a record update. -/

namespace Sys2Proof.Machine

/-! ## environmentActs -/

@[simp] theorem environmentActs_cf (s : State) : (environmentActs s).cf = s.cf := rfl
@[simp] theorem environmentActs_tf (s : State) : (environmentActs s).tf = s.tf := rfl
@[simp] theorem environmentActs_st (s : State) : (environmentActs s).st = s.st := rfl
@[simp] theorem environmentActs_rxp (s : State) : (environmentActs s).rxp = s.rxp := rfl
@[simp] theorem environmentActs_outcome (s : State) : (environmentActs s).outcome = s.outcome := rfl
@[simp] theorem environmentActs_initDone (s : State) : (environmentActs s).initDone = s.initDone := rfl
@[simp] theorem environmentActs_phase (s : State) : (environmentActs s).phase = s.phase := rfl
@[simp] theorem environmentActs_csn (s : State) : (environmentActs s).csn = s.csn := rfl
@[simp] theorem environmentActs_ce (s : State) : (environmentActs s).ce = s.ce := rfl
@[simp] theorem environmentActs_att (s : State) : (environmentActs s).att = s.att := rfl
@[simp] theorem environmentActs_faultSig (s : State) : (environmentActs s).faultSig = s.faultSig := rfl
@[simp] theorem environmentActs_trace (s : State) : (environmentActs s).trace = s.trace := rfl
@[simp] theorem environmentActs_radio (s : State) :
    (environmentActs s).radio = (nextActions s).foldl (radioAct s.cfg s.ce) s.radio := rfl
@[simp] theorem environmentActs_padK (s : State) : (environmentActs s).padK = s.padK := rfl
@[simp] theorem environmentActs_irqN (s : State) : (environmentActs s).irqN = s.irqN := rfl
@[simp] theorem environmentActs_cfg (s : State) : (environmentActs s).cfg = s.cfg := rfl
@[simp] theorem environmentActs_seq (s : State) : (environmentActs s).seq = s.seq := rfl
@[simp] theorem environmentActs_inputs (s : State) : (environmentActs s).inputs = s.inputs := rfl
@[simp] theorem environmentActs_ret (s : State) : (environmentActs s).ret = s.ret := rfl
@[simp] theorem environmentActs_answers (s : State) : (environmentActs s).answers = s.answers := rfl
@[simp] theorem environmentActs_byteDraws (s : State) : (environmentActs s).byteDraws = s.byteDraws := rfl
@[simp] theorem environmentActs_plan (s : State) : (environmentActs s).plan = s.plan.tail := rfl
@[simp] theorem environmentActs_envDraws (s : State) : (environmentActs s).envDraws = s.envDraws + 1 := rfl

/-! ## useAnswer -/

@[simp] theorem useAnswer_cf (s : State) : (useAnswer s).cf = s.cf := rfl
@[simp] theorem useAnswer_tf (s : State) : (useAnswer s).tf = s.tf := rfl
@[simp] theorem useAnswer_st (s : State) : (useAnswer s).st = s.st := rfl
@[simp] theorem useAnswer_rxp (s : State) : (useAnswer s).rxp = s.rxp := rfl
@[simp] theorem useAnswer_outcome (s : State) : (useAnswer s).outcome = s.outcome := rfl
@[simp] theorem useAnswer_initDone (s : State) : (useAnswer s).initDone = s.initDone := rfl
@[simp] theorem useAnswer_phase (s : State) : (useAnswer s).phase = s.phase := rfl
@[simp] theorem useAnswer_csn (s : State) : (useAnswer s).csn = s.csn := rfl
@[simp] theorem useAnswer_ce (s : State) : (useAnswer s).ce = s.ce := rfl
@[simp] theorem useAnswer_att (s : State) : (useAnswer s).att = s.att := rfl
@[simp] theorem useAnswer_faultSig (s : State) : (useAnswer s).faultSig = s.faultSig := rfl
@[simp] theorem useAnswer_trace (s : State) : (useAnswer s).trace = s.trace := rfl
@[simp] theorem useAnswer_radio (s : State) : (useAnswer s).radio = s.radio := rfl
@[simp] theorem useAnswer_padK (s : State) : (useAnswer s).padK = s.padK := rfl
@[simp] theorem useAnswer_irqN (s : State) : (useAnswer s).irqN = s.irqN := rfl
@[simp] theorem useAnswer_cfg (s : State) : (useAnswer s).cfg = s.cfg := rfl
@[simp] theorem useAnswer_seq (s : State) : (useAnswer s).seq = s.seq := rfl
@[simp] theorem useAnswer_inputs (s : State) : (useAnswer s).inputs = s.inputs := rfl
@[simp] theorem useAnswer_ret (s : State) : (useAnswer s).ret = s.ret := rfl
@[simp] theorem useAnswer_answers (s : State) : (useAnswer s).answers = s.answers.tail := rfl
@[simp] theorem useAnswer_byteDraws (s : State) : (useAnswer s).byteDraws = s.byteDraws + 1 := rfl
@[simp] theorem useAnswer_plan (s : State) : (useAnswer s).plan = s.plan := rfl
@[simp] theorem useAnswer_envDraws (s : State) : (useAnswer s).envDraws = s.envDraws := rfl

/-! ## emit -/

@[simp] theorem emit_cf (e : Event) (s : State) : (emit e s).cf = s.cf := rfl
@[simp] theorem emit_tf (e : Event) (s : State) : (emit e s).tf = s.tf := rfl
@[simp] theorem emit_st (e : Event) (s : State) : (emit e s).st = s.st := rfl
@[simp] theorem emit_rxp (e : Event) (s : State) : (emit e s).rxp = s.rxp := rfl
@[simp] theorem emit_outcome (e : Event) (s : State) : (emit e s).outcome = s.outcome := rfl
@[simp] theorem emit_initDone (e : Event) (s : State) : (emit e s).initDone = s.initDone := rfl
@[simp] theorem emit_phase (e : Event) (s : State) : (emit e s).phase = s.phase := rfl
@[simp] theorem emit_csn (e : Event) (s : State) : (emit e s).csn = s.csn := rfl
@[simp] theorem emit_ce (e : Event) (s : State) : (emit e s).ce = s.ce := rfl
@[simp] theorem emit_att (e : Event) (s : State) : (emit e s).att = s.att := rfl
@[simp] theorem emit_faultSig (e : Event) (s : State) : (emit e s).faultSig = s.faultSig := rfl
@[simp] theorem emit_trace (e : Event) (s : State) : (emit e s).trace = s.trace ++ [e] := rfl
@[simp] theorem emit_radio (e : Event) (s : State) :
    (emit e s).radio = (nextActions s).foldl (radioAct s.cfg s.ce) s.radio := rfl
@[simp] theorem emit_padK (e : Event) (s : State) : (emit e s).padK = s.padK := rfl
@[simp] theorem emit_irqN (e : Event) (s : State) : (emit e s).irqN = s.irqN := rfl
@[simp] theorem emit_cfg (e : Event) (s : State) : (emit e s).cfg = s.cfg := rfl
@[simp] theorem emit_seq (e : Event) (s : State) : (emit e s).seq = s.seq := rfl
@[simp] theorem emit_inputs (e : Event) (s : State) : (emit e s).inputs = s.inputs := rfl
@[simp] theorem emit_ret (e : Event) (s : State) : (emit e s).ret = s.ret := rfl
@[simp] theorem emit_answers (e : Event) (s : State) : (emit e s).answers = s.answers := rfl
@[simp] theorem emit_byteDraws (e : Event) (s : State) : (emit e s).byteDraws = s.byteDraws := rfl
@[simp] theorem emit_plan (e : Event) (s : State) : (emit e s).plan = s.plan.tail := rfl
@[simp] theorem emit_envDraws (e : Event) (s : State) : (emit e s).envDraws = s.envDraws + 1 := rfl

/-! ## waitFor -/

@[simp] theorem waitFor_cf (t : TimeParam) (s : State) : (waitFor t s).cf = s.cf := rfl
@[simp] theorem waitFor_tf (t : TimeParam) (s : State) : (waitFor t s).tf = s.tf := rfl
@[simp] theorem waitFor_st (t : TimeParam) (s : State) : (waitFor t s).st = s.st := rfl
@[simp] theorem waitFor_rxp (t : TimeParam) (s : State) : (waitFor t s).rxp = s.rxp := rfl
@[simp] theorem waitFor_outcome (t : TimeParam) (s : State) : (waitFor t s).outcome = s.outcome := rfl
@[simp] theorem waitFor_initDone (t : TimeParam) (s : State) : (waitFor t s).initDone = s.initDone := rfl
@[simp] theorem waitFor_phase (t : TimeParam) (s : State) : (waitFor t s).phase = s.phase := rfl
@[simp] theorem waitFor_csn (t : TimeParam) (s : State) : (waitFor t s).csn = s.csn := rfl
@[simp] theorem waitFor_ce (t : TimeParam) (s : State) : (waitFor t s).ce = s.ce := rfl
@[simp] theorem waitFor_att (t : TimeParam) (s : State) : (waitFor t s).att = s.att := rfl
@[simp] theorem waitFor_faultSig (t : TimeParam) (s : State) : (waitFor t s).faultSig = s.faultSig := rfl
@[simp] theorem waitFor_trace (t : TimeParam) (s : State) : (waitFor t s).trace = s.trace ++ [.wait t] := rfl
@[simp] theorem waitFor_radio (t : TimeParam) (s : State) :
    (waitFor t s).radio = (nextActions s).foldl (radioAct s.cfg s.ce) s.radio := rfl
@[simp] theorem waitFor_padK (t : TimeParam) (s : State) : (waitFor t s).padK = s.padK := rfl
@[simp] theorem waitFor_irqN (t : TimeParam) (s : State) : (waitFor t s).irqN = s.irqN := rfl
@[simp] theorem waitFor_cfg (t : TimeParam) (s : State) : (waitFor t s).cfg = s.cfg := rfl
@[simp] theorem waitFor_seq (t : TimeParam) (s : State) : (waitFor t s).seq = s.seq := rfl
@[simp] theorem waitFor_inputs (t : TimeParam) (s : State) : (waitFor t s).inputs = s.inputs := rfl
@[simp] theorem waitFor_ret (t : TimeParam) (s : State) : (waitFor t s).ret = s.ret := rfl
@[simp] theorem waitFor_answers (t : TimeParam) (s : State) : (waitFor t s).answers = s.answers := rfl
@[simp] theorem waitFor_byteDraws (t : TimeParam) (s : State) : (waitFor t s).byteDraws = s.byteDraws := rfl
@[simp] theorem waitFor_plan (t : TimeParam) (s : State) : (waitFor t s).plan = s.plan.tail := rfl
@[simp] theorem waitFor_envDraws (t : TimeParam) (s : State) : (waitFor t s).envDraws = s.envDraws + 1 := rfl

/-! ## driveCsnLow -/

@[simp] theorem driveCsnLow_cf (s : State) : (driveCsnLow s).cf = s.cf := rfl
@[simp] theorem driveCsnLow_tf (s : State) : (driveCsnLow s).tf = s.tf := rfl
@[simp] theorem driveCsnLow_st (s : State) : (driveCsnLow s).st = s.st := rfl
@[simp] theorem driveCsnLow_rxp (s : State) : (driveCsnLow s).rxp = s.rxp := rfl
@[simp] theorem driveCsnLow_outcome (s : State) : (driveCsnLow s).outcome = s.outcome := rfl
@[simp] theorem driveCsnLow_initDone (s : State) : (driveCsnLow s).initDone = s.initDone := rfl
@[simp] theorem driveCsnLow_phase (s : State) : (driveCsnLow s).phase = s.phase := rfl
@[simp] theorem driveCsnLow_csn (s : State) : (driveCsnLow s).csn = false := rfl
@[simp] theorem driveCsnLow_ce (s : State) : (driveCsnLow s).ce = s.ce := rfl
@[simp] theorem driveCsnLow_att (s : State) : (driveCsnLow s).att = s.att := rfl
@[simp] theorem driveCsnLow_faultSig (s : State) : (driveCsnLow s).faultSig = s.faultSig := rfl
@[simp] theorem driveCsnLow_trace (s : State) : (driveCsnLow s).trace = s.trace ++ [.csn false] := rfl
@[simp] theorem driveCsnLow_radio (s : State) :
    (driveCsnLow s).radio = (nextActions s).foldl (radioAct s.cfg s.ce) (radioSelect s.radio) := rfl
@[simp] theorem driveCsnLow_padK (s : State) : (driveCsnLow s).padK = s.padK := rfl
@[simp] theorem driveCsnLow_irqN (s : State) : (driveCsnLow s).irqN = s.irqN := rfl
@[simp] theorem driveCsnLow_cfg (s : State) : (driveCsnLow s).cfg = s.cfg := rfl
@[simp] theorem driveCsnLow_seq (s : State) : (driveCsnLow s).seq = s.seq := rfl
@[simp] theorem driveCsnLow_inputs (s : State) : (driveCsnLow s).inputs = s.inputs := rfl
@[simp] theorem driveCsnLow_ret (s : State) : (driveCsnLow s).ret = s.ret := rfl
@[simp] theorem driveCsnLow_answers (s : State) : (driveCsnLow s).answers = s.answers := rfl
@[simp] theorem driveCsnLow_byteDraws (s : State) : (driveCsnLow s).byteDraws = s.byteDraws := rfl
@[simp] theorem driveCsnLow_plan (s : State) : (driveCsnLow s).plan = s.plan.tail := rfl
@[simp] theorem driveCsnLow_envDraws (s : State) : (driveCsnLow s).envDraws = s.envDraws + 1 := rfl

/-! ## driveCsnHigh -/

@[simp] theorem driveCsnHigh_cf (s : State) : (driveCsnHigh s).cf = s.cf := rfl
@[simp] theorem driveCsnHigh_tf (s : State) : (driveCsnHigh s).tf = s.tf := rfl
@[simp] theorem driveCsnHigh_st (s : State) : (driveCsnHigh s).st = s.st := rfl
@[simp] theorem driveCsnHigh_rxp (s : State) : (driveCsnHigh s).rxp = s.rxp := rfl
@[simp] theorem driveCsnHigh_outcome (s : State) : (driveCsnHigh s).outcome = s.outcome := rfl
@[simp] theorem driveCsnHigh_initDone (s : State) : (driveCsnHigh s).initDone = s.initDone := rfl
@[simp] theorem driveCsnHigh_phase (s : State) : (driveCsnHigh s).phase = s.phase := rfl
@[simp] theorem driveCsnHigh_csn (s : State) : (driveCsnHigh s).csn = true := rfl
@[simp] theorem driveCsnHigh_ce (s : State) : (driveCsnHigh s).ce = s.ce := rfl
@[simp] theorem driveCsnHigh_att (s : State) : (driveCsnHigh s).att = s.att := rfl
@[simp] theorem driveCsnHigh_faultSig (s : State) : (driveCsnHigh s).faultSig = s.faultSig := rfl
@[simp] theorem driveCsnHigh_trace (s : State) : (driveCsnHigh s).trace = s.trace ++ [.csn true] := rfl
@[simp] theorem driveCsnHigh_radio (s : State) :
    (driveCsnHigh s).radio = (nextActions s).foldl (radioAct s.cfg s.ce) (radioDeselect s.cfg s.envDraws s.radio) := rfl
@[simp] theorem driveCsnHigh_padK (s : State) : (driveCsnHigh s).padK = s.padK := rfl
@[simp] theorem driveCsnHigh_irqN (s : State) : (driveCsnHigh s).irqN = s.irqN := rfl
@[simp] theorem driveCsnHigh_cfg (s : State) : (driveCsnHigh s).cfg = s.cfg := rfl
@[simp] theorem driveCsnHigh_seq (s : State) : (driveCsnHigh s).seq = s.seq := rfl
@[simp] theorem driveCsnHigh_inputs (s : State) : (driveCsnHigh s).inputs = s.inputs := rfl
@[simp] theorem driveCsnHigh_ret (s : State) : (driveCsnHigh s).ret = s.ret := rfl
@[simp] theorem driveCsnHigh_answers (s : State) : (driveCsnHigh s).answers = s.answers := rfl
@[simp] theorem driveCsnHigh_byteDraws (s : State) : (driveCsnHigh s).byteDraws = s.byteDraws := rfl
@[simp] theorem driveCsnHigh_plan (s : State) : (driveCsnHigh s).plan = s.plan.tail := rfl
@[simp] theorem driveCsnHigh_envDraws (s : State) : (driveCsnHigh s).envDraws = s.envDraws + 1 := rfl

/-! ## exchange -/

@[simp] theorem exchange_cf (tx : Byte) (s : State) : (exchange tx s).cf = s.cf := rfl
@[simp] theorem exchange_tf (tx : Byte) (s : State) : (exchange tx s).tf = s.tf := rfl
@[simp] theorem exchange_st (tx : Byte) (s : State) : (exchange tx s).st = s.st := rfl
@[simp] theorem exchange_rxp (tx : Byte) (s : State) : (exchange tx s).rxp = s.rxp := rfl
@[simp] theorem exchange_outcome (tx : Byte) (s : State) : (exchange tx s).outcome = s.outcome := rfl
@[simp] theorem exchange_initDone (tx : Byte) (s : State) : (exchange tx s).initDone = s.initDone := rfl
@[simp] theorem exchange_phase (tx : Byte) (s : State) : (exchange tx s).phase = s.phase := rfl
@[simp] theorem exchange_csn (tx : Byte) (s : State) : (exchange tx s).csn = s.csn := rfl
@[simp] theorem exchange_ce (tx : Byte) (s : State) : (exchange tx s).ce = s.ce := rfl
@[simp] theorem exchange_att (tx : Byte) (s : State) : (exchange tx s).att = s.att := rfl
@[simp] theorem exchange_faultSig (tx : Byte) (s : State) : (exchange tx s).faultSig = s.faultSig := rfl
@[simp] theorem exchange_trace (tx : Byte) (s : State) :
    (exchange tx s).trace = s.trace ++ [.xfer tx (receivedByte s)] := rfl
@[simp] theorem exchange_radio (tx : Byte) (s : State) :
    (exchange tx s).radio = (nextActions s).foldl (radioAct s.cfg s.ce) (if s.csn then s.radio else { s.radio with sent := s.radio.sent ++ [tx] }) := rfl
@[simp] theorem exchange_padK (tx : Byte) (s : State) :
    (exchange tx s).padK = if s.att then padAdvance s.envDraws s.padK else s.padK := rfl
@[simp] theorem exchange_irqN (tx : Byte) (s : State) : (exchange tx s).irqN = s.irqN := rfl
@[simp] theorem exchange_cfg (tx : Byte) (s : State) : (exchange tx s).cfg = s.cfg := rfl
@[simp] theorem exchange_seq (tx : Byte) (s : State) : (exchange tx s).seq = s.seq := rfl
@[simp] theorem exchange_inputs (tx : Byte) (s : State) : (exchange tx s).inputs = s.inputs := rfl
@[simp] theorem exchange_ret (tx : Byte) (s : State) : (exchange tx s).ret = s.ret := rfl
@[simp] theorem exchange_answers (tx : Byte) (s : State) : (exchange tx s).answers = s.answers.tail := rfl
@[simp] theorem exchange_byteDraws (tx : Byte) (s : State) : (exchange tx s).byteDraws = s.byteDraws + 1 := rfl
@[simp] theorem exchange_plan (tx : Byte) (s : State) : (exchange tx s).plan = s.plan.tail := rfl
@[simp] theorem exchange_envDraws (tx : Byte) (s : State) : (exchange tx s).envDraws = s.envDraws + 1 := rfl

/-! ## faultOn -/

@[simp] theorem faultOn_cf (s : State) : (faultOn s).cf = s.cf := rfl
@[simp] theorem faultOn_tf (s : State) : (faultOn s).tf = s.tf := rfl
@[simp] theorem faultOn_st (s : State) : (faultOn s).st = s.st := rfl
@[simp] theorem faultOn_rxp (s : State) : (faultOn s).rxp = s.rxp := rfl
@[simp] theorem faultOn_outcome (s : State) : (faultOn s).outcome = s.outcome := rfl
@[simp] theorem faultOn_initDone (s : State) : (faultOn s).initDone = s.initDone := rfl
@[simp] theorem faultOn_phase (s : State) : (faultOn s).phase = s.phase := rfl
@[simp] theorem faultOn_csn (s : State) : (faultOn s).csn = s.csn := rfl
@[simp] theorem faultOn_ce (s : State) : (faultOn s).ce = s.ce := rfl
@[simp] theorem faultOn_att (s : State) : (faultOn s).att = s.att := rfl
@[simp] theorem faultOn_faultSig (s : State) : (faultOn s).faultSig = true := rfl
@[simp] theorem faultOn_trace (s : State) : (faultOn s).trace = s.trace ++ [.faultSig true] := rfl
@[simp] theorem faultOn_radio (s : State) :
    (faultOn s).radio = (nextActions s).foldl (radioAct s.cfg s.ce) s.radio := rfl
@[simp] theorem faultOn_padK (s : State) : (faultOn s).padK = s.padK := rfl
@[simp] theorem faultOn_irqN (s : State) : (faultOn s).irqN = s.irqN := rfl
@[simp] theorem faultOn_cfg (s : State) : (faultOn s).cfg = s.cfg := rfl
@[simp] theorem faultOn_seq (s : State) : (faultOn s).seq = s.seq := rfl
@[simp] theorem faultOn_inputs (s : State) : (faultOn s).inputs = s.inputs := rfl
@[simp] theorem faultOn_ret (s : State) : (faultOn s).ret = s.ret := rfl
@[simp] theorem faultOn_answers (s : State) : (faultOn s).answers = s.answers := rfl
@[simp] theorem faultOn_byteDraws (s : State) : (faultOn s).byteDraws = s.byteDraws := rfl
@[simp] theorem faultOn_plan (s : State) : (faultOn s).plan = s.plan.tail := rfl
@[simp] theorem faultOn_envDraws (s : State) : (faultOn s).envDraws = s.envDraws + 1 := rfl

/-! ## faultOff -/

@[simp] theorem faultOff_cf (s : State) : (faultOff s).cf = s.cf := rfl
@[simp] theorem faultOff_tf (s : State) : (faultOff s).tf = s.tf := rfl
@[simp] theorem faultOff_st (s : State) : (faultOff s).st = s.st := rfl
@[simp] theorem faultOff_rxp (s : State) : (faultOff s).rxp = s.rxp := rfl
@[simp] theorem faultOff_outcome (s : State) : (faultOff s).outcome = s.outcome := rfl
@[simp] theorem faultOff_initDone (s : State) : (faultOff s).initDone = s.initDone := rfl
@[simp] theorem faultOff_phase (s : State) : (faultOff s).phase = s.phase := rfl
@[simp] theorem faultOff_csn (s : State) : (faultOff s).csn = s.csn := rfl
@[simp] theorem faultOff_ce (s : State) : (faultOff s).ce = s.ce := rfl
@[simp] theorem faultOff_att (s : State) : (faultOff s).att = s.att := rfl
@[simp] theorem faultOff_faultSig (s : State) : (faultOff s).faultSig = false := rfl
@[simp] theorem faultOff_trace (s : State) : (faultOff s).trace = s.trace ++ [.faultSig false] := rfl
@[simp] theorem faultOff_radio (s : State) :
    (faultOff s).radio = (nextActions s).foldl (radioAct s.cfg s.ce) s.radio := rfl
@[simp] theorem faultOff_padK (s : State) : (faultOff s).padK = s.padK := rfl
@[simp] theorem faultOff_irqN (s : State) : (faultOff s).irqN = s.irqN := rfl
@[simp] theorem faultOff_cfg (s : State) : (faultOff s).cfg = s.cfg := rfl
@[simp] theorem faultOff_seq (s : State) : (faultOff s).seq = s.seq := rfl
@[simp] theorem faultOff_inputs (s : State) : (faultOff s).inputs = s.inputs := rfl
@[simp] theorem faultOff_ret (s : State) : (faultOff s).ret = s.ret := rfl
@[simp] theorem faultOff_answers (s : State) : (faultOff s).answers = s.answers := rfl
@[simp] theorem faultOff_byteDraws (s : State) : (faultOff s).byteDraws = s.byteDraws := rfl
@[simp] theorem faultOff_plan (s : State) : (faultOff s).plan = s.plan.tail := rfl
@[simp] theorem faultOff_envDraws (s : State) : (faultOff s).envDraws = s.envDraws + 1 := rfl

/-! ## Storing into `rxp` -/

@[simp] theorem storeRxp_rxp (bytes : List Byte) (s : State) :
    (storeRxp bytes s).rxp = if s.cfg.role = .rx then Bytes5.ofList? bytes else s.rxp := rfl
@[simp] theorem storeRxp_cf (bytes : List Byte) (s : State) : (storeRxp bytes s).cf = s.cf := rfl
@[simp] theorem storeRxp_tf (bytes : List Byte) (s : State) : (storeRxp bytes s).tf = s.tf := rfl
@[simp] theorem storeRxp_st (bytes : List Byte) (s : State) : (storeRxp bytes s).st = s.st := rfl
@[simp] theorem storeRxp_outcome (bytes : List Byte) (s : State) : (storeRxp bytes s).outcome = s.outcome := rfl
@[simp] theorem storeRxp_initDone (bytes : List Byte) (s : State) : (storeRxp bytes s).initDone = s.initDone := rfl
@[simp] theorem storeRxp_phase (bytes : List Byte) (s : State) : (storeRxp bytes s).phase = s.phase := rfl
@[simp] theorem storeRxp_csn (bytes : List Byte) (s : State) : (storeRxp bytes s).csn = s.csn := rfl
@[simp] theorem storeRxp_ce (bytes : List Byte) (s : State) : (storeRxp bytes s).ce = s.ce := rfl
@[simp] theorem storeRxp_att (bytes : List Byte) (s : State) : (storeRxp bytes s).att = s.att := rfl
@[simp] theorem storeRxp_faultSig (bytes : List Byte) (s : State) : (storeRxp bytes s).faultSig = s.faultSig := rfl
@[simp] theorem storeRxp_trace (bytes : List Byte) (s : State) : (storeRxp bytes s).trace = s.trace := rfl
@[simp] theorem storeRxp_radio (bytes : List Byte) (s : State) : (storeRxp bytes s).radio = s.radio := rfl
@[simp] theorem storeRxp_padK (bytes : List Byte) (s : State) : (storeRxp bytes s).padK = s.padK := rfl
@[simp] theorem storeRxp_irqN (bytes : List Byte) (s : State) : (storeRxp bytes s).irqN = s.irqN := rfl
@[simp] theorem storeRxp_cfg (bytes : List Byte) (s : State) : (storeRxp bytes s).cfg = s.cfg := rfl
@[simp] theorem storeRxp_seq (bytes : List Byte) (s : State) : (storeRxp bytes s).seq = s.seq := rfl
@[simp] theorem storeRxp_inputs (bytes : List Byte) (s : State) : (storeRxp bytes s).inputs = s.inputs := rfl
@[simp] theorem storeRxp_ret (bytes : List Byte) (s : State) : (storeRxp bytes s).ret = s.ret := rfl
@[simp] theorem storeRxp_answers (bytes : List Byte) (s : State) : (storeRxp bytes s).answers = s.answers := rfl
@[simp] theorem storeRxp_byteDraws (bytes : List Byte) (s : State) : (storeRxp bytes s).byteDraws = s.byteDraws := rfl
@[simp] theorem storeRxp_plan (bytes : List Byte) (s : State) : (storeRxp bytes s).plan = s.plan := rfl
@[simp] theorem storeRxp_envDraws (bytes : List Byte) (s : State) : (storeRxp bytes s).envDraws = s.envDraws := rfl

end Sys2Proof.Machine
end

