-- ==== Sys2Proof/Laws/Memory.lean ====
section
/-! SUPPORT. The register map: read after write, and every operation keeps the canonical form. -/

namespace Sys2Proof.Machine

@[simp] theorem Memory.read_nil (a : Nat) : Memory.read [] a = none := rfl

theorem Memory.wfFrom_mono {lo lo' : Nat} (h : lo' ≤ lo) :
    ∀ m : Memory, Memory.wfFrom lo m = true → Memory.wfFrom lo' m = true
  | [], _ => rfl
  | (b, d) :: rest, hm => by
    simp only [Memory.wfFrom, Bool.and_eq_true, decide_eq_true_eq] at hm ⊢
    exact ⟨⟨by omega, hm.1.2⟩, hm.2⟩

/-- Below the first listed address every register holds no value. -/
theorem Memory.read_below {lo a : Nat} (h : a < lo) :
    ∀ m : Memory, Memory.wfFrom lo m = true → Memory.read m a = none
  | [], _ => rfl
  | (b, d) :: rest, hm => by
    simp only [Memory.wfFrom, Bool.and_eq_true, decide_eq_true_eq] at hm
    have hb : b ≠ a := by omega
    simp only [Memory.read, hb, if_false]
    exact Memory.read_below (lo := b + 1) (by omega) rest hm.2

/-- A write leaves the address bound of a canonical map that also bounds the written address. -/
theorem Memory.write_wfFrom {lo a : Nat} (data : List Byte) (ha : lo ≤ a) :
    ∀ m : Memory, Memory.wfFrom lo m = true → Memory.wfFrom lo (Memory.write m a data) = true
  | [], _ => by
    unfold Memory.write
    split <;> simp_all [Memory.wfFrom]
  | (b, d) :: rest, hm => by
    have hm' := hm
    simp only [Memory.wfFrom, Bool.and_eq_true, decide_eq_true_eq] at hm
    unfold Memory.write
    split
    · split
      · exact hm'
      · rename_i hab hd
        simp only [Memory.wfFrom, Bool.and_eq_true, decide_eq_true_eq]
        exact ⟨⟨ha, by simpa using hd⟩, ⟨by omega, hm.1.2⟩, hm.2⟩
    · split
      · rename_i hab
        subst hab
        split
        · exact Memory.wfFrom_mono (by omega) rest hm.2
        · rename_i hd
          simp only [Memory.wfFrom, Bool.and_eq_true, decide_eq_true_eq]
          exact ⟨⟨ha, by simpa using hd⟩, hm.2⟩
      · simp only [Memory.wfFrom, Bool.and_eq_true, decide_eq_true_eq]
        exact ⟨hm.1, Memory.write_wfFrom data (by omega) rest hm.2⟩

/-- Every write keeps the canonical form. -/
theorem Memory.write_wf (m : Memory) (a : Nat) (data : List Byte) (h : Memory.wf m = true) :
    Memory.wf (Memory.write m a data) = true :=
  Memory.write_wfFrom data (Nat.zero_le a) m h

/-- Reading after a write to the same register gives the bytes written. -/
theorem Memory.read_write_same (a : Nat) (data : List Byte) (hd : data ≠ []) :
    ∀ m : Memory, Memory.read (Memory.write m a data) a = some data
  | [] => by simp [Memory.write, Memory.read, hd]
  | (b, d) :: rest => by
    unfold Memory.write
    split
    · simp [Memory.read]
    · split
      · simp [Memory.read]
      · rename_i h1 h2
        have hb : b ≠ a := fun h => h2 h.symm
        simp [Memory.read, hb, Memory.read_write_same a data hd rest]

/-- A write leaves every other register alone. -/
theorem Memory.read_write_other {a b : Nat} (data : List Byte) (h : b ≠ a) :
    ∀ m : Memory, Memory.read (Memory.write m a data) b = Memory.read m b
  | [] => by
    unfold Memory.write
    split
    · rfl
    · simp [Memory.read, h.symm]
  | (c, d) :: rest => by
    unfold Memory.write
    split
    · split
      · rfl
      · simp [Memory.read, h.symm]
    · split
      · rename_i hab
        subst hab
        split <;> simp [Memory.read, h.symm]
      · simp [Memory.read, Memory.read_write_other data h rest]

/-- At reset the register map is canonical. -/
theorem reset_memory_wf : Memory.wf State.reset.radio.rreg = true := rfl

/-! ## The device operations on the register map -/

/-- What RADIO does by itself never touches the register map (R53, R54). -/
@[simp] theorem radioAct_rreg (P : Config) (ce : Bool) (r : Radio) (a : EnvAction) :
    (radioAct P ce r a).rreg = r.rreg := by
  cases a <;> simp only [radioAct] <;> split <;> rfl

/-- What RADIO does by itself never touches the transaction it is in (R48). -/
@[simp] theorem radioAct_sent (P : Config) (ce : Bool) (r : Radio) (a : EnvAction) :
    (radioAct P ce r a).sent = r.sent := by
  cases a <;> simp only [radioAct] <;> split <;> rfl

@[simp] theorem radioAct_startedBusy (P : Config) (ce : Bool) (r : Radio) (a : EnvAction) :
    (radioAct P ce r a).startedBusy = r.startedBusy := by
  cases a <;> simp only [radioAct] <;> split <;> rfl

@[simp] theorem foldl_radioAct_rreg (P : Config) (ce : Bool) (as : List EnvAction) :
    ∀ r : Radio, (as.foldl (radioAct P ce) r).rreg = r.rreg := by
  induction as with
  | nil => exact fun _ => rfl
  | cons a as ih => intro r; simp [ih]

@[simp] theorem foldl_radioAct_sent (P : Config) (ce : Bool) (as : List EnvAction) :
    ∀ r : Radio, (as.foldl (radioAct P ce) r).sent = r.sent := by
  induction as with
  | nil => exact fun _ => rfl
  | cons a as ih => intro r; simp [ih]

@[simp] theorem foldl_radioAct_startedBusy (P : Config) (ce : Bool) (as : List EnvAction) :
    ∀ r : Radio, (as.foldl (radioAct P ce) r).startedBusy = r.startedBusy := by
  induction as with
  | nil => exact fun _ => rfl
  | cons a as ih => intro r; simp [ih]

/-- With nothing in flight and the enable line low RADIO does nothing by itself (R53, R54). -/
theorem radioAct_quiet (P : Config) (r : Radio) (a : EnvAction) (h : r.air = .idle) : radioAct P false r a = r := by
  cases a <;> simp [radioAct, h]

theorem foldl_radioAct_quiet (P : Config) (as : List EnvAction) (r : Radio) (h : r.air = .idle) :
    as.foldl (radioAct P false) r = r := by
  induction as with
  | nil => rfl
  | cons a as ih => rw [List.foldl_cons, radioAct_quiet P r a h, ih]

/-- The whole of what a transaction may do to the register map: nothing, one canonical write, or the draw. -/
theorem transactionEffect_wf (P : Config) (n : Nat) (c : Byte) (data : List Byte) (r : Radio)
    (h : Memory.wf r.rreg = true) : Memory.wf (transactionEffect P n c data r).rreg = true := by
  have hu : Memory.wf (radioUnknown n r).rreg = true := rfl
  unfold transactionEffect
  split
  · exact hu
  · split
    · split
      · exact h
      · exact hu
    · split
      · exact h
      · exact hu
    · split
      · exact h
      · exact hu
    · unfold registerWrite
      split
      · split
        · exact h
        · exact hu
      · split
        · split
          · exact Memory.write_wf _ _ _ h
          · exact hu
        · exact hu
    · unfold registerRead
      split
      · split
        · exact h
        · exact hu
      · split
        · exact h
        · exact hu

theorem radioDeselect_wf (P : Config) (n : Nat) (r : Radio) (h : Memory.wf r.rreg = true) :
    Memory.wf (radioDeselect P n r).rreg = true := by
  unfold radioDeselect
  split
  · rfl
  · exact transactionEffect_wf P n _ _ r h

theorem radioEnable_wf (P : Config) (n : Nat) (r : Radio) (h : Memory.wf r.rreg = true) :
    Memory.wf (radioEnable P n r).rreg = true := by
  unfold radioEnable
  split
  · rfl
  · split
    · exact h
    · split
      · exact h
      · exact h

theorem hasWork_eq {P : Config} {r : Radio} :
    hasWork P r = true ↔
      chipStarted P r = true ∧ (selectsRx P r = true ∨ (selectsTx P r = true ∧ r.txq ≠ [])) := by
  simp [hasWork]

/-- The whole of what `Ce(1)` does with work to do and neither a failure flag nor an attempt in the way (R53, R54). -/
theorem radioEnable_of_work {P : Config} {r : Radio} (n : Nat) (h : hasWork P r = true) (hm : r.maxRt = false)
    (ha : r.air = .idle) : radioEnable P n r = if selectsTx P r then { r with air := .pending } else r := by
  simp [radioEnable, h, hm, ha]

@[simp] theorem radioEnable_sent (P : Config) (n : Nat) (r : Radio) : (radioEnable P n r).sent = r.sent := by
  unfold radioEnable
  split
  · rfl
  · split
    · rfl
    · split <;> rfl

@[simp] theorem radioDeselect_sent (P : Config) (n : Nat) (r : Radio) : (radioDeselect P n r).sent = [] := rfl

/-- PAD's position stays in 0 to 9 (R56). -/
theorem padAdvance_le (n k : Nat) : padAdvance n k ≤ 9 := by
  unfold padAdvance
  split
  · omega
  · omega

end Sys2Proof.Machine
end

