-- ==== Sys2Proof/Laws/Ops.lean ====
section
/-! SUPPORT. For each shared operation one lemma that says once everything it can do; later proofs cite these and do not
unfold the operations. -/

namespace Sys2Proof.Machine

open Sys2Proof.Safety

/-! ## Results -/

@[simp] theorem bind_ok {α β : Type} (a : α) (f : α → Result β) : (Except.ok a >>= f : Result β) = f a := rfl

@[simp] theorem bind_error {α β : Type} (e : Stop) (f : α → Result β) :
    (Except.error e >>= f : Result β) = Except.error e := rfl

theorem bind_eq_ok {α β : Type} {x : Result α} {f : α → Result β} {b : β} :
    (x >>= f) = .ok b ↔ ∃ a, x = .ok a ∧ f a = .ok b := by
  cases x with
  | error e => simp
  | ok a => simp

@[simp] theorem outcomeOfResult_ok (s : State) : outcomeOfResult (.ok s) = .next s := rfl

@[simp] theorem outcomeOfReturn_ok (bytes : List Byte) (s : State) :
    outcomeOfReturn (.ok (bytes, s)) = .next { s with ret := bytes } := rfl

@[simp] theorem outcomeOfResult_refuse (r : Refusal) : outcomeOfResult (.error (.refuse r)) = .refused r := rfl

@[simp] theorem outcomeOfResult_fault (f : Fault) : outcomeOfResult (.error (.fault f)) = .fault f := rfl

@[simp] theorem outcomeOfReturn_refuse (r : Refusal) : outcomeOfReturn (.error (.refuse r)) = .refused r := rfl

@[simp] theorem outcomeOfReturn_fault (f : Fault) : outcomeOfReturn (.error (.fault f)) = .fault f := rfl

theorem outcomeOfResult_eq_next {x : Result State} {t : State} : outcomeOfResult x = .next t ↔ x = .ok t := by
  cases x with
  | error e => cases e <;> simp [outcomeOfResult]
  | ok a => simp [outcomeOfResult]

theorem outcomeOfReturn_eq_next {x : Result (List Byte × State)} {t : State} :
    outcomeOfReturn x = .next t ↔ ∃ bytes s, x = .ok (bytes, s) ∧ t = { s with ret := bytes } := by
  cases x with
  | error e => cases e <;> simp [outcomeOfReturn]
  | ok a =>
    obtain ⟨bytes, s⟩ := a
    simp only [outcomeOfReturn, Host.Outcome.next.injEq, Except.ok.injEq, Prod.mk.injEq]
    constructor
    · rintro rfl
      exact ⟨bytes, s, ⟨rfl, rfl⟩, rfl⟩
    · rintro ⟨_, _, ⟨rfl, rfl⟩, rfl⟩
      rfl

/-- An operation with a value dropped. -/
theorem map_snd_eq_ok {α : Type} {x : Result (α × State)} {t : State} :
    (x.map Prod.snd : Result State) = .ok t ↔ ∃ a, x = .ok (a, t) := by
  cases x with
  | error e => simp [Except.map]
  | ok p =>
    obtain ⟨a, s⟩ := p
    simp [Except.map]

theorem map_eq_ok {α β : Type} {f : α → β} {x : Result α} {b : β} :
    (x.map f : Result β) = .ok b ↔ ∃ a, x = .ok a ∧ f a = b := by
  cases x with
  | error e => simp [Except.map]
  | ok p => simp [Except.map]

/-! ## Micro-operations -/

theorem csnEnable_eq_ok {s t : State} :
    csnEnable s = .ok t ↔ s.att = false ∧ s.csn = true ∧ t = driveCsnLow s := by
  unfold csnEnable
  cases s.att <;> cases s.csn <;> simp [eq_comm]

theorem csnDisable_eq_ok {s t : State} : csnDisable s = .ok t ↔ s.csn = false ∧ t = driveCsnHigh s := by
  unfold csnDisable
  cases s.csn <;> simp [eq_comm]

theorem xfer_eq_ok {tx rx : Byte} {s t : State} :
    xfer tx s = .ok (rx, t) ↔ s.csn = s.att ∧ rx = receivedByte s ∧ t = exchange tx s := by
  unfold xfer
  cases s.att <;> cases s.csn <;> simp [eq_comm]

theorem ceHigh_eq_ok {s t : State} :
    ceHigh s = .ok t ↔ s.ce = false ∧ s.csn = true ∧
      t = emit (.ce true) { s with ce := true, radio := radioEnable s.cfg s.envDraws s.radio } := by
  unfold ceHigh
  cases s.ce <;> cases s.csn <;> simp [eq_comm]

theorem ceLow_eq_ok {s t : State} :
    ceLow s = .ok t ↔ s.ce = true ∧ t = emit (.ce false) { s with ce := false } := by
  unfold ceLow
  cases s.ce <;> simp [eq_comm]

theorem attAssert_eq_ok {s t : State} :
    attAssert s = .ok t ↔ s.csn = true ∧ s.att = false ∧ t = emit (.att true) { s with att := true, padK := 0 } := by
  unfold attAssert
  cases s.csn <;> cases s.att <;> simp [eq_comm]

theorem attRelease_eq_ok {s t : State} :
    attRelease s = .ok t ↔ s.att = true ∧ t = emit (.att false) { s with att := false } := by
  unfold attRelease
  cases s.att <;> simp [eq_comm]

/-! ## Draws -/

theorem answerAt_zero (s : State) : answerAt s 0 = nextAnswer s := by
  simp [answerAt, nextAnswer, List.head?_eq_getElem?]

/-- A state whose draws are those of another, n used up. -/
abbrev DrawsAfter (n : Nat) (s t : State) : Prop := t.answers = s.answers.drop n ∧ t.byteDraws = s.byteDraws + n

theorem answerAt_of_drawsAfter {n : Nat} {s t : State} (h : DrawsAfter n s t) (k : Nat) :
    answerAt t k = answerAt s (n + k) := by
  simp only [answerAt, h.1, h.2, List.getElem?_drop, Nat.add_assoc]

/-! ## Exchanges -/

/-- The state after exchanging a sequence of bytes with whatever is selected. -/
def exchangeState (t : TimeParam) (txs : List Byte) (s : State) : State :=
  txs.foldl (fun s tx => exchange tx (waitFor t s)) s

/-- The bytes received while exchanging a sequence of bytes. -/
def exchangeBytes (t : TimeParam) : List Byte → State → List Byte
  | [], _ => []
  | tx :: rest, s => receivedByte (waitFor t s) :: exchangeBytes t rest (exchange tx (waitFor t s))

@[simp] theorem exchangeState_nil (t : TimeParam) (s : State) : exchangeState t [] s = s := rfl

@[simp] theorem exchangeState_cons (t : TimeParam) (tx : Byte) (txs : List Byte) (s : State) :
    exchangeState t (tx :: txs) s = exchangeState t txs (exchange tx (waitFor t s)) := rfl

@[simp] theorem exchangeBytes_nil (t : TimeParam) (s : State) : exchangeBytes t [] s = [] := rfl

@[simp] theorem exchangeBytes_cons (t : TimeParam) (tx : Byte) (txs : List Byte) (s : State) :
    exchangeBytes t (tx :: txs) s =
      receivedByte (waitFor t s) :: exchangeBytes t txs (exchange tx (waitFor t s)) := rfl

/-- With exactly one device selected an exchange of any sequence completes; the lines `csn` and `att` are equal exactly
then (R22, R24, R100). -/
theorem exchangeAll_selected (t : TimeParam) (txs : List Byte) :
    ∀ s : State, s.csn = s.att → exchangeAll t txs s = .ok (exchangeBytes t txs s, exchangeState t txs s) := by
  induction txs with
  | nil => exact fun _ _ => rfl
  | cons tx txs ih =>
    intro s h
    have hx : xfer tx (waitFor t s) = .ok (receivedByte (waitFor t s), exchange tx (waitFor t s)) :=
      xfer_eq_ok.2 ⟨by simpa using h, rfl, rfl⟩
    simp only [exchangeAll, hx, bind_ok, exchangeBytes_cons, exchangeState_cons]
    rw [ih _ (by simpa using h)]
    rfl

/-- An exchange completes only with exactly one device selected. -/
theorem exchangeAll_eq_ok {t : TimeParam} {tx : Byte} {txs : List Byte} {s u : State} {rxs : List Byte}
    (h : exchangeAll t (tx :: txs) s = .ok (rxs, u)) :
    s.csn = s.att ∧ rxs = exchangeBytes t (tx :: txs) s ∧ u = exchangeState t (tx :: txs) s := by
  have hsel : s.csn = s.att := by
    simp only [exchangeAll, bind_eq_ok] at h
    obtain ⟨⟨rx, s1⟩, hx, -⟩ := h
    simpa using (xfer_eq_ok.1 hx).1
  rw [exchangeAll_selected t _ s hsel] at h
  cases h
  exact ⟨hsel, rfl, rfl⟩

section ExchangeState
variable (t : TimeParam) (txs : List Byte)

@[simp] theorem exchangeState_cf : ∀ s, (exchangeState t txs s).cf = s.cf := by
  induction txs with
  | nil => exact fun _ => rfl
  | cons tx txs ih => intro s; simp [ih]

@[simp] theorem exchangeState_tf : ∀ s, (exchangeState t txs s).tf = s.tf := by
  induction txs with
  | nil => exact fun _ => rfl
  | cons tx txs ih => intro s; simp [ih]

@[simp] theorem exchangeState_st : ∀ s, (exchangeState t txs s).st = s.st := by
  induction txs with
  | nil => exact fun _ => rfl
  | cons tx txs ih => intro s; simp [ih]

@[simp] theorem exchangeState_rxp : ∀ s, (exchangeState t txs s).rxp = s.rxp := by
  induction txs with
  | nil => exact fun _ => rfl
  | cons tx txs ih => intro s; simp [ih]

@[simp] theorem exchangeState_outcome : ∀ s, (exchangeState t txs s).outcome = s.outcome := by
  induction txs with
  | nil => exact fun _ => rfl
  | cons tx txs ih => intro s; simp [ih]

@[simp] theorem exchangeState_initDone : ∀ s, (exchangeState t txs s).initDone = s.initDone := by
  induction txs with
  | nil => exact fun _ => rfl
  | cons tx txs ih => intro s; simp [ih]

@[simp] theorem exchangeState_phase : ∀ s, (exchangeState t txs s).phase = s.phase := by
  induction txs with
  | nil => exact fun _ => rfl
  | cons tx txs ih => intro s; simp [ih]

@[simp] theorem exchangeState_csn : ∀ s, (exchangeState t txs s).csn = s.csn := by
  induction txs with
  | nil => exact fun _ => rfl
  | cons tx txs ih => intro s; simp [ih]

@[simp] theorem exchangeState_ce : ∀ s, (exchangeState t txs s).ce = s.ce := by
  induction txs with
  | nil => exact fun _ => rfl
  | cons tx txs ih => intro s; simp [ih]

@[simp] theorem exchangeState_att : ∀ s, (exchangeState t txs s).att = s.att := by
  induction txs with
  | nil => exact fun _ => rfl
  | cons tx txs ih => intro s; simp [ih]

@[simp] theorem exchangeState_faultSig : ∀ s, (exchangeState t txs s).faultSig = s.faultSig := by
  induction txs with
  | nil => exact fun _ => rfl
  | cons tx txs ih => intro s; simp [ih]

@[simp] theorem exchangeState_irqN : ∀ s, (exchangeState t txs s).irqN = s.irqN := by
  induction txs with
  | nil => exact fun _ => rfl
  | cons tx txs ih => intro s; simp [ih]

@[simp] theorem exchangeState_cfg : ∀ s, (exchangeState t txs s).cfg = s.cfg := by
  induction txs with
  | nil => exact fun _ => rfl
  | cons tx txs ih => intro s; simp [ih]

@[simp] theorem exchangeState_seq : ∀ s, (exchangeState t txs s).seq = s.seq := by
  induction txs with
  | nil => exact fun _ => rfl
  | cons tx txs ih => intro s; simp [ih]

@[simp] theorem exchangeState_inputs : ∀ s, (exchangeState t txs s).inputs = s.inputs := by
  induction txs with
  | nil => exact fun _ => rfl
  | cons tx txs ih => intro s; simp [ih]

@[simp] theorem exchangeState_ret : ∀ s, (exchangeState t txs s).ret = s.ret := by
  induction txs with
  | nil => exact fun _ => rfl
  | cons tx txs ih => intro s; simp [ih]

@[simp] theorem exchangeState_rreg : ∀ s, (exchangeState t txs s).radio.rreg = s.radio.rreg := by
  induction txs with
  | nil => exact fun _ => rfl
  | cons tx txs ih => intro s; simp only [exchangeState_cons, ih]; cases h : s.csn <;> simp [h]

@[simp] theorem exchangeState_startedBusy :
    ∀ s, (exchangeState t txs s).radio.startedBusy = s.radio.startedBusy := by
  induction txs with
  | nil => exact fun _ => rfl
  | cons tx txs ih => intro s; simp only [exchangeState_cons, ih]; cases h : s.csn <;> simp [h]

/-- The bytes RADIO has seen grow by the bytes sent while it is selected (R48). -/
theorem exchangeState_sent :
    ∀ s, s.csn = false → (exchangeState t txs s).radio.sent = s.radio.sent ++ txs := by
  induction txs with
  | nil => exact fun _ _ => by simp
  | cons tx txs ih =>
    intro s h
    rw [exchangeState_cons, ih _ (by simpa using h)]
    simp [h]

/-- RADIO ignores what is exchanged while it is not selected (R48). -/
theorem exchangeState_sent_deselected :
    ∀ s, s.csn = true → (exchangeState t txs s).radio.sent = s.radio.sent := by
  induction txs with
  | nil => exact fun _ _ => rfl
  | cons tx txs ih =>
    intro s h
    rw [exchangeState_cons, ih _ (by simpa using h)]
    simp [h]

/-- The trace grows by a wait and an exchange for each byte (R120, R180). -/
theorem exchangeState_trace :
    ∀ s, (exchangeState t txs s).trace = s.trace ++ exchangeEvents t txs (exchangeBytes t txs s) := by
  induction txs with
  | nil => intro s; simp [exchangeEvents]
  | cons tx txs ih => intro s; simp [exchangeEvents, ih]

@[simp] theorem exchangeBytes_length : ∀ s, (exchangeBytes t txs s).length = txs.length := by
  induction txs with
  | nil => exact fun _ => rfl
  | cons tx txs ih => intro s; simp [ih]

theorem exchangeState_draws : ∀ s, DrawsAfter txs.length s (exchangeState t txs s) := by
  induction txs with
  | nil => exact fun s => ⟨by simp, by simp⟩
  | cons tx txs ih =>
    intro s
    obtain ⟨h1, h2⟩ := ih (exchange tx (waitFor t s))
    refine ⟨?_, ?_⟩
    · rw [exchangeState_cons, h1]
      simp
    · rw [exchangeState_cons, h2]
      simp
      omega

/-- PAD stays inside 0 to 9 (R56). -/
theorem exchangeState_padK_le : ∀ s, s.padK ≤ 9 → (exchangeState t txs s).padK ≤ 9 := by
  induction txs with
  | nil => exact fun _ h => h
  | cons tx txs ih =>
    intro s h
    rw [exchangeState_cons]
    refine ih _ ?_
    cases ha : s.att
    · simpa [ha] using h
    · simpa [ha] using padAdvance_le _ _

/-- PAD does not move while it is not addressed (R56). -/
theorem exchangeState_padK_released : ∀ s, s.att = false → (exchangeState t txs s).padK = s.padK := by
  induction txs with
  | nil => exact fun _ _ => rfl
  | cons tx txs ih =>
    intro s h
    rw [exchangeState_cons, ih _ (by simpa using h)]
    simp [h]

end ExchangeState

/-- The bytes received from the controller are the draws, in order (R56). -/
theorem exchangeBytes_pad (t : TimeParam) (txs : List Byte) :
    ∀ s : State, s.csn = true → exchangeBytes t txs s = answersFrom s txs.length := by
  induction txs with
  | nil => exact fun _ _ => rfl
  | cons tx txs ih =>
    intro s h
    have hd : DrawsAfter 1 s (exchange tx (waitFor t s)) := ⟨by simp, by simp⟩
    have hr : receivedByte (waitFor t s) = answerAt s 0 := by
      simp [receivedByte, h, answerAt_zero, nextAnswer]
    rw [exchangeBytes_cons, ih _ (by simpa using h), hr]
    simp only [answersFrom, List.length_cons, List.range_succ_eq_map, List.map_cons, List.map_map]
    congr 1
    apply List.map_congr_left
    intro k _
    simp [answerAt_of_drawsAfter hd, Nat.add_comm]

/-- RADIO's part of an exchange with nothing in flight and the enable line low: only the bytes it has seen grow. -/
theorem exchangeState_quiet (t : TimeParam) (txs : List Byte) :
    ∀ s : State, s.csn = false → s.ce = false → s.radio.air = .idle →
      (exchangeState t txs s).radio = { s.radio with sent := s.radio.sent ++ txs } := by
  induction txs with
  | nil => intro s _ _ _; simp
  | cons tx txs ih =>
    intro s h hc ha
    have h1 : (exchange tx (waitFor t s)).radio = { s.radio with sent := s.radio.sent ++ [tx] } := by
      simp [h, hc, foldl_radioAct_quiet _ _ _ ha]
      rw [foldl_radioAct_quiet]
      exact ha
    rw [exchangeState_cons, ih _ (by simpa using h) (by simpa using hc) (by rw [h1]; exact ha), h1]
    simp

/-! ## The bracketed transaction -/

/-- All the bytes received in a transaction, the first one included. -/
def xactBytes (first : Byte) (arg : XactArg) (s : State) : List Byte :=
  exchangeBytes .tSettle (first :: sentData s.cfg arg) (driveCsnLow s)

/-- The state after a transaction. -/
def xactState (first : Byte) (arg : XactArg) (s : State) : State :=
  driveCsnHigh (exchangeState .tSettle (first :: sentData s.cfg arg) (driveCsnLow s))

/-- RADIO_XACT says exactly this (R120): it completes from `csn = 1, att = 0` with a length in range. -/
theorem radioXact_eq_ok {first : Byte} {arg : XactArg} {s t : State} {res : List Byte} :
    radioXact first arg s = .ok (res, t) ↔
      arg.len ≤ s.cfg.nMax ∧ s.csn = true ∧ s.att = false ∧
        res = capturedData arg (xactBytes first arg s).tail ∧ t = xactState first arg s := by
  unfold radioXact
  by_cases hl : s.cfg.nMax < arg.len
  · simp [hl, Nat.not_le.2 hl]
  · rw [if_neg hl]
    constructor
    · intro h
      obtain ⟨s1, h1, h⟩ := bind_eq_ok.1 h
      obtain ⟨ha, hc, rfl⟩ := csnEnable_eq_ok.1 h1
      obtain ⟨⟨got, s2⟩, h2, h⟩ := bind_eq_ok.1 h
      obtain ⟨-, rfl, rfl⟩ := exchangeAll_eq_ok h2
      obtain ⟨s3, h3, h⟩ := bind_eq_ok.1 h
      obtain ⟨-, rfl⟩ := csnDisable_eq_ok.1 h3
      cases h
      exact ⟨by omega, hc, ha, rfl, rfl⟩
    · rintro ⟨-, hc, ha, rfl, rfl⟩
      have h3 : csnDisable (exchangeState .tSettle (first :: sentData s.cfg arg) (driveCsnLow s)) =
          .ok (xactState first arg s) := csnDisable_eq_ok.2 ⟨by simp, rfl⟩
      rw [csnEnable_eq_ok.2 ⟨ha, hc, rfl⟩, bind_ok, exchangeAll_selected _ _ _ (by simp [ha])]
      simp only [bind_ok, h3]
      rfl

theorem radioXact_idle {s : State} (first : Byte) (arg : XactArg) (hc : s.csn = true) (ha : s.att = false)
    (hl : arg.len ≤ s.cfg.nMax) :
    radioXact first arg s = .ok (capturedData arg (xactBytes first arg s).tail, xactState first arg s) :=
  radioXact_eq_ok.2 ⟨hl, hc, ha, rfl, rfl⟩

section XactState
variable (first : Byte) (arg : XactArg) (s : State)

@[simp] theorem xactState_cf : (xactState first arg s).cf = s.cf := by simp [xactState]
@[simp] theorem xactState_tf : (xactState first arg s).tf = s.tf := by simp [xactState]
@[simp] theorem xactState_st : (xactState first arg s).st = s.st := by simp [xactState]
@[simp] theorem xactState_rxp : (xactState first arg s).rxp = s.rxp := by simp [xactState]
@[simp] theorem xactState_outcome : (xactState first arg s).outcome = s.outcome := by simp [xactState]
@[simp] theorem xactState_initDone : (xactState first arg s).initDone = s.initDone := by simp [xactState]
@[simp] theorem xactState_phase : (xactState first arg s).phase = s.phase := by simp [xactState]
@[simp] theorem xactState_csn : (xactState first arg s).csn = true := by simp [xactState]
@[simp] theorem xactState_ce : (xactState first arg s).ce = s.ce := by simp [xactState]
@[simp] theorem xactState_att : (xactState first arg s).att = s.att := by simp [xactState]
@[simp] theorem xactState_faultSig : (xactState first arg s).faultSig = s.faultSig := by simp [xactState]
@[simp] theorem xactState_irqN : (xactState first arg s).irqN = s.irqN := by simp [xactState]
@[simp] theorem xactState_cfg : (xactState first arg s).cfg = s.cfg := by simp [xactState]
@[simp] theorem xactState_seq : (xactState first arg s).seq = s.seq := by simp [xactState]
@[simp] theorem xactState_inputs : (xactState first arg s).inputs = s.inputs := by simp [xactState]
@[simp] theorem xactState_ret : (xactState first arg s).ret = s.ret := by simp [xactState]
@[simp] theorem xactState_sent : (xactState first arg s).radio.sent = [] := by simp [xactState]

/-- The events of a transaction (R120). -/
theorem xactState_trace :
    (xactState first arg s).trace = s.trace ++ xactEvents (first :: sentData s.cfg arg) (xactBytes first arg s) := by
  simp only [xactState, driveCsnHigh_trace, exchangeState_trace, driveCsnLow_trace, xactEvents, xactBytes]
  simp

@[simp] theorem xactBytes_length : (xactBytes first arg s).length = (sentData s.cfg arg).length + 1 := by
  simp [xactBytes]

@[simp] theorem sentData_length (P : Config) : (sentData P arg).length = arg.len := by
  cases arg <;> simp [sentData, XactArg.len]

theorem xactState_draws : DrawsAfter (arg.len + 1) s (xactState first arg s) := by
  obtain ⟨h1, h2⟩ := exchangeState_draws .tSettle (first :: sentData s.cfg arg) (driveCsnLow s)
  exact ⟨by simpa [xactState] using h1, by simpa [xactState] using h2⟩

theorem xactState_padK (h : s.att = false) : (xactState first arg s).padK = s.padK := by
  simp only [xactState, driveCsnHigh_padK]
  rw [exchangeState_padK_released _ _ _ (by simpa using h)]
  simp

/-- The register map after a transaction is canonical (R46). -/
theorem xactState_wf (h : Memory.wf s.radio.rreg = true) : Memory.wf (xactState first arg s).radio.rreg = true := by
  simp only [xactState, driveCsnHigh_radio, foldl_radioAct_rreg]
  refine radioDeselect_wf _ _ _ ?_
  simpa [radioSelect] using h

/-- RADIO after a transaction, with nothing in flight and the enable line low: exactly the transaction's effect (R48,
R60), at some draw. -/
theorem xactState_quiet (hc : s.ce = false) (ha : s.radio.air = .idle) :
    ∃ n, (xactState first arg s).radio =
      (nextActions (exchangeState .tSettle (first :: sentData s.cfg arg) (driveCsnLow s))).foldl
        (radioAct s.cfg false)
        { transactionEffect s.cfg n first (sentData s.cfg arg)
            { s.radio with sent := first :: sentData s.cfg arg, startedBusy := false } with
          sent := [], startedBusy := false } := by
  have hlow : (driveCsnLow s).radio = { s.radio with sent := [], startedBusy := false } := by
    rw [driveCsnLow_radio, hc, foldl_radioAct_quiet]
    · simp [radioSelect, ha]
    · simpa [radioSelect] using ha
  have hx := exchangeState_quiet .tSettle (first :: sentData s.cfg arg) (driveCsnLow s) (by simp) (by simpa using hc)
    (by rw [hlow]; exact ha)
  refine ⟨(exchangeState .tSettle (first :: sentData s.cfg arg) (driveCsnLow s)).envDraws, ?_⟩
  simp only [xactState, driveCsnHigh_radio, exchangeState_cfg, exchangeState_ce, driveCsnLow_cfg, driveCsnLow_ce, hc]
  rw [hx, hlow]
  simp [radioDeselect]

end XactState

/-- In a transaction that only sends, the bytes returned are draws (R48, R49). -/
theorem exchangeBytes_write (t : TimeParam) (c : Byte) (P : Config) (hP : ∀ a, classify P c ≠ .regRead a)
    (hR : classify P c ≠ .payloadRead) (txs : List Byte) :
    ∀ s : State, s.cfg = P → s.csn = false → (∃ rest, s.radio.sent = c :: rest) →
      exchangeBytes t txs s = answersFrom s txs.length := by
  induction txs with
  | nil => exact fun _ _ _ _ => rfl
  | cons tx txs ih =>
    intro s hcfg h hs
    obtain ⟨rest, hrest⟩ := hs
    have hd : DrawsAfter 1 s (exchange tx (waitFor t s)) := ⟨by simp, by simp⟩
    have hr : receivedByte (waitFor t s) = answerAt s 0 := by
      simp only [receivedByte, waitFor_csn, h, waitFor_cfg, hcfg, radioAnswer, waitFor_radio, foldl_radioAct_sent,
        hrest]
      cases hk : classify P c with
      | flush => simp [answerAt_zero, nextAnswer]
      | payloadWrite => simp [answerAt_zero, nextAnswer]
      | payloadRead => exact absurd hk hR
      | regWrite a => simp [answerAt_zero, nextAnswer]
      | regRead a => exact absurd hk (hP a)
    rw [exchangeBytes_cons, ih _ (by simpa using hcfg) (by simpa using h) ⟨rest ++ [tx], by simp [h, hrest]⟩, hr]
    simp only [answersFrom, List.length_cons, List.range_succ_eq_map, List.map_cons, List.map_map]
    congr 1
    apply List.map_congr_left
    intro k _
    simp [answerAt_of_drawsAfter hd, Nat.add_comm]

end Sys2Proof.Machine
end

