-- ==== Sys2Proof/Laws/PerInstr.lean ====
section
/-! SUPPORT. The per-instruction family RoundTrip: what the encoder writes for a well-formed instruction the decoder reads
back as that instruction (spec/30_encoding.md R71 to R87), one lemma per constructor. -/

namespace Sys2Proof.Laws.RoundTrip

/-- Decoding the encoding of the instruction gives it back, for every configuration the constraints of R5 admit. -/
def Statement (i : Instr) : Prop :=
  ∀ (P : Config) (r : Request), P.wf → i.wf P = true → encode P i = some r → decode P r = .ok i

theorem regRead (a : Byte) (n : Nat) : Statement (.regRead a n) := by
  intro P r _ _ he
  simp only [encode] at he
  split at he
  · rename_i hn
    cases he
    simp [decode, decodeOpsel, Nat.mod_eq_of_lt hn]
  · cases he

theorem regWrite (a : Byte) (data : List Byte) : Statement (.regWrite a data) := by
  intro P r _ _ he
  cases he
  rfl

theorem statusReset : Statement (.statusReset) := by
  intro P r _ _ he
  cases he
  rfl

theorem statusRead : Statement (.statusRead) := by
  intro P r _ _ he
  cases he
  rfl

theorem init : Statement (.init) := by
  intro P r _ _ he
  cases he
  rfl

theorem flushTx : Statement (.flushTx) := by
  intro P r _ _ he
  cases he
  rfl

theorem wTxPayload (p : List Byte) : Statement (.wTxPayload p) := by
  intro P r _ _ he
  cases he
  rfl

theorem transmit (p : List Byte) : Statement (.transmit p) := by
  intro P r _ _ he
  cases he
  rfl

theorem rRxPayload : Statement (.rRxPayload) := by
  intro P r _ _ he
  cases he
  rfl

theorem receive : Statement (.receive) := by
  intro P r _ _ he
  cases he
  rfl

theorem poll : Statement (.poll) := by
  intro P r _ _ he
  cases he
  rfl

theorem pack : Statement (.pack) := by
  intro P r _ _ he
  cases he
  rfl

theorem faultcheck : Statement (.faultcheck) := by
  intro P r _ _ he
  cases he
  rfl

theorem waitCycle : Statement (.waitCycle) := by
  intro P r _ _ he
  cases he
  rfl

theorem cycle : Statement (.cycle) := by
  intro P r _ _ he
  cases he
  rfl

theorem opselReserved : Statement (.opselReserved) := by
  intro P r _ _ he
  cases he
  rfl

theorem run : Statement (.run) := by
  intro P r _ _ he
  cases he

theorem radioXact (first : Byte) (arg : XactArg) : Statement (.radioXact first arg) := by
  intro P r _ _ he
  cases he

theorem xfer (tx : Byte) : Statement (.xfer tx) := by
  intro P r _ _ he
  cases he

theorem wait (t : TimeParam) : Statement (.wait t) := by
  intro P r _ _ he
  cases he

theorem csnEnable : Statement (.csnEnable) := by
  intro P r _ _ he
  cases he

theorem csnDisable : Statement (.csnDisable) := by
  intro P r _ _ he
  cases he

theorem ceHigh : Statement (.ceHigh) := by
  intro P r _ _ he
  cases he

theorem ceLow : Statement (.ceLow) := by
  intro P r _ _ he
  cases he

theorem attAssert : Statement (.attAssert) := by
  intro P r _ _ he
  cases he

theorem attRelease : Statement (.attRelease) := by
  intro P r _ _ he
  cases he

theorem faultOn : Statement (.faultOn) := by
  intro P r _ _ he
  cases he

theorem faultOff : Statement (.faultOff) := by
  intro P r _ _ he
  cases he

theorem radioRRegister (a : Byte) (n : Nat) : Statement (.radioRRegister a n) := by
  intro P r _ hw he
  cases he
  simp only [Instr.wf, Bool.and_eq_true, beq_iff_eq, Bool.not_eq_true', decide_eq_true_eq, List.contains_eq_mem,
    decide_eq_false_iff_not] at hw
  obtain ⟨m, rfl⟩ : ∃ m, n = m + 1 := ⟨n - 1, by omega⟩
  simp only [decode, decodeRadio, classify_readFirst hw.1.1.1 hw.1.1.2, List.replicate_succ, List.length_replicate]

theorem radioWRegister (a : Byte) (data : List Byte) : Statement (.radioWRegister a data) := by
  intro P r hP hw he
  cases he
  simp only [Instr.wf, Bool.and_eq_true, beq_iff_eq, Bool.not_eq_true', decide_eq_true_eq, List.contains_eq_mem,
    decide_eq_false_iff_not] at hw
  match data, hw with
  | d :: ds, hw => simp only [decode, decodeRadio, classify_writeFirst hP hw.1.1.1 hw.1.1.2]

theorem radioFlushTx : Statement (.radioFlushTx) := by
  intro P r _ _ he
  cases he
  simp only [decode, decodeRadio, classify_flush]

theorem radioWTxPayload (p : Bytes5) : Statement (.radioWTxPayload p) := by
  intro P r hP _ he
  cases he
  simp only [decode, decodeRadio, classify_payloadWrite hP, ofList?_toList]

theorem radioRRxPayload : Statement (.radioRRxPayload) := by
  intro P r hP _ he
  cases he
  simp only [decode, decodeRadio, classify_payloadRead hP, List.length_replicate, if_true]

theorem padPollCmd : Statement (.padPollCmd) := by
  intro P r _ _ he
  cases he
  rfl

theorem padReadyCmd : Statement (.padReadyCmd) := by
  intro P r _ _ he
  cases he
  rfl

theorem padFill : Statement (.padFill) := by
  intro P r _ _ he
  cases he
  rfl

theorem padNop (f : PadField) : Statement (.padNop f) := by
  intro P r _ _ he
  cases he
  cases f <;> rfl

theorem tframe (l : Byte) (h : Byte) (x : Byte) (y : Byte) : Statement (.tframe l h x y) := by
  intro P r _ _ he
  cases he
  rfl

theorem statusByte (b : Byte) : Statement (.statusByte b) := by
  intro P r _ _ he
  cases he
  rfl

end Sys2Proof.Laws.RoundTrip
end

