-- ==== Sys2Proof/Laws/Procedures.lean ====
section
/-! SUPPORT. For each operation built on the transaction and the exchange one lemma that says once when it completes and
with which state; later proofs cite these and do not unfold the operations. -/

namespace Sys2Proof.Machine

open Sys2Proof.Safety

/-! ## RADIO after a transaction -/

/-- With nothing in flight and the enable line low, RADIO after a transaction is what the transaction makes of it. -/
theorem xactState_radio (first : Byte) (arg : XactArg) (s : State) (hc : s.ce = false) (ha : s.radio.air = .idle)
    (r : Radio) (hr : r.air = .idle)
    (h : ∀ n, transactionEffect s.cfg n first (sentData s.cfg arg)
        { s.radio with sent := first :: sentData s.cfg arg, startedBusy := false } =
      { r with sent := first :: sentData s.cfg arg, startedBusy := false }) :
    (xactState first arg s).radio = { r with sent := [], startedBusy := false } := by
  obtain ⟨n, hx⟩ := xactState_quiet first arg s hc ha
  rw [hx, h, foldl_radioAct_quiet]
  exact hr

/-- A transaction whose effect leaves the register map alone leaves it alone, whatever else RADIO does. -/
theorem xactState_rreg (first : Byte) (arg : XactArg) (s : State)
    (h : ∀ n r, r.rreg = s.radio.rreg → (transactionEffect s.cfg n first (sentData s.cfg arg) r).rreg = s.radio.rreg) :
    (xactState first arg s).radio.rreg = s.radio.rreg := by
  simp only [xactState, driveCsnHigh_radio, foldl_radioAct_rreg, radioDeselect, exchangeState_cfg, driveCsnLow_cfg]
  rw [exchangeState_sent _ _ _ (by simp)]
  simp only [driveCsnLow_radio, foldl_radioAct_sent, radioSelect, List.nil_append]
  rw [h]
  simp [radioSelect]

/-! ## Radio register transfer -/

theorem regWrite_eq_ok {a : Byte} {data : List Byte} {s t : State} :
    regWrite a data s = .ok t ↔
      addressAllowed s.cfg s.cfg.regTxPayload a = true ∧ data.length ≤ s.cfg.nMax ∧ s.csn = true ∧ s.att = false ∧
        t = xactState (writeFirst s.cfg a) (.out data) s := by
  unfold regWrite
  by_cases h : addressAllowed s.cfg s.cfg.regTxPayload a = true
  · rw [if_pos h]
    constructor
    · intro hx
      obtain ⟨⟨res, s1⟩, hx, h1⟩ := bind_eq_ok.1 hx
      obtain ⟨hl, hc, ha, -, rfl⟩ := radioXact_eq_ok.1 hx
      cases h1
      exact ⟨h, hl, hc, ha, rfl⟩
    · rintro ⟨-, hl, hc, ha, rfl⟩
      rw [radioXact_idle (writeFirst s.cfg a) (.out data) hc ha hl]
      rfl
  · simp [h]

theorem regRead_eq_ok {a : Byte} {n : Nat} {s t : State} {res : List Byte} :
    regRead a n s = .ok (res, t) ↔
      addressAllowed s.cfg s.cfg.regRxPayload a = true ∧ n ≤ s.cfg.nMax ∧ s.csn = true ∧ s.att = false ∧
        res = (xactBytes (readFirst a) (.inp n) s).tail ∧ t = xactState (readFirst a) (.inp n) s := by
  unfold regRead
  by_cases h : addressAllowed s.cfg s.cfg.regRxPayload a = true
  · rw [if_pos h, radioXact_eq_ok]
    simp [h, XactArg.len, capturedData]
  · simp [h]

/-- The state after the status reset (R123). -/
def statusResetState (s : State) : State :=
  xactState (writeFirst s.cfg s.cfg.regStatus) (.out [s.cfg.statusIrqMask]) s

section
variable (s : State)
@[simp] theorem statusResetState_cf : (statusResetState s).cf = s.cf := by simp [statusResetState]
@[simp] theorem statusResetState_tf : (statusResetState s).tf = s.tf := by simp [statusResetState]
@[simp] theorem statusResetState_st : (statusResetState s).st = s.st := by simp [statusResetState]
@[simp] theorem statusResetState_rxp : (statusResetState s).rxp = s.rxp := by simp [statusResetState]
@[simp] theorem statusResetState_outcome : (statusResetState s).outcome = s.outcome := by simp [statusResetState]
@[simp] theorem statusResetState_initDone : (statusResetState s).initDone = s.initDone := by simp [statusResetState]
@[simp] theorem statusResetState_phase : (statusResetState s).phase = s.phase := by simp [statusResetState]
@[simp] theorem statusResetState_ce : (statusResetState s).ce = s.ce := by simp [statusResetState]
@[simp] theorem statusResetState_att : (statusResetState s).att = s.att := by simp [statusResetState]
@[simp] theorem statusResetState_faultSig : (statusResetState s).faultSig = s.faultSig := by simp [statusResetState]
@[simp] theorem statusResetState_irqN : (statusResetState s).irqN = s.irqN := by simp [statusResetState]
@[simp] theorem statusResetState_cfg : (statusResetState s).cfg = s.cfg := by simp [statusResetState]
@[simp] theorem statusResetState_seq : (statusResetState s).seq = s.seq := by simp [statusResetState]
@[simp] theorem statusResetState_inputs : (statusResetState s).inputs = s.inputs := by simp [statusResetState]
@[simp] theorem statusResetState_ret : (statusResetState s).ret = s.ret := by simp [statusResetState]
@[simp] theorem statusResetState_csn : (statusResetState s).csn = true := by simp [statusResetState]
end

theorem statusReset_eq_ok {s t : State} (hP : s.cfg.wf) :
    statusReset s = .ok t ↔ s.csn = true ∧ s.att = false ∧ t = statusResetState s := by
  have h5 : 5 ≤ s.cfg.nMax := hP.2.2.2.2.2
  have ha : addressAllowed s.cfg s.cfg.regTxPayload s.cfg.regStatus = true :=
    addressAllowed_map hP (by simp [Config.mapRegisters]) _
  unfold statusReset
  rw [regWrite_eq_ok]
  simp [ha, statusResetState, show 1 ≤ s.cfg.nMax by omega]

/-- The byte a status read puts in `st` (R124): the one of the data exchange. -/
def sampledStatus (s : State) : Option Byte := (xactBytes (readFirst s.cfg.regStatus) (.inp 1) s)[1]?

/-- The state after the status read, `st` aside (R124). -/
def statusReadState (s : State) : State :=
  { xactState (readFirst s.cfg.regStatus) (.inp 1) s with st := sampledStatus s }

section
variable (s : State)
@[simp] theorem statusReadState_cf : (statusReadState s).cf = s.cf := by simp [statusReadState]
@[simp] theorem statusReadState_tf : (statusReadState s).tf = s.tf := by simp [statusReadState]
@[simp] theorem statusReadState_st : (statusReadState s).st = sampledStatus s := by simp [statusReadState]
@[simp] theorem statusReadState_rxp : (statusReadState s).rxp = s.rxp := by simp [statusReadState]
@[simp] theorem statusReadState_outcome : (statusReadState s).outcome = s.outcome := by simp [statusReadState]
@[simp] theorem statusReadState_initDone : (statusReadState s).initDone = s.initDone := by simp [statusReadState]
@[simp] theorem statusReadState_phase : (statusReadState s).phase = s.phase := by simp [statusReadState]
@[simp] theorem statusReadState_ce : (statusReadState s).ce = s.ce := by simp [statusReadState]
@[simp] theorem statusReadState_att : (statusReadState s).att = s.att := by simp [statusReadState]
@[simp] theorem statusReadState_faultSig : (statusReadState s).faultSig = s.faultSig := by simp [statusReadState]
@[simp] theorem statusReadState_irqN : (statusReadState s).irqN = s.irqN := by simp [statusReadState]
@[simp] theorem statusReadState_cfg : (statusReadState s).cfg = s.cfg := by simp [statusReadState]
@[simp] theorem statusReadState_seq : (statusReadState s).seq = s.seq := by simp [statusReadState]
@[simp] theorem statusReadState_inputs : (statusReadState s).inputs = s.inputs := by simp [statusReadState]
@[simp] theorem statusReadState_ret : (statusReadState s).ret = s.ret := by simp [statusReadState]
@[simp] theorem statusReadState_csn : (statusReadState s).csn = true := by simp [statusReadState]
theorem statusReadState_radio :
    (statusReadState s).radio = (xactState (readFirst s.cfg.regStatus) (.inp 1) s).radio := by unfold statusReadState; rfl
theorem statusReadState_trace :
    (statusReadState s).trace = (xactState (readFirst s.cfg.regStatus) (.inp 1) s).trace := by unfold statusReadState; rfl
theorem statusReadState_padK (h : s.att = false) : (statusReadState s).padK = s.padK := by
  have hx := xactState_padK (readFirst s.cfg.regStatus) (.inp 1) s h
  unfold statusReadState
  exact hx
end

theorem sampledStatus_isSome (s : State) : ∃ b, sampledStatus s = some b := by
  have h : 1 < (xactBytes (readFirst s.cfg.regStatus) (.inp 1) s).length := by simp [XactArg.len]
  exact ⟨_, List.getElem?_eq_getElem h⟩

theorem statusRead_eq_ok {s t : State} (hP : s.cfg.wf) :
    statusRead s = .ok t ↔ s.csn = true ∧ s.att = false ∧ t = statusReadState s := by
  have h5 : 5 ≤ s.cfg.nMax := hP.2.2.2.2.2
  have ha : addressAllowed s.cfg s.cfg.regRxPayload s.cfg.regStatus = true :=
    addressAllowed_map hP (by simp [Config.mapRegisters]) _
  unfold statusRead
  constructor
  · intro h
    obtain ⟨⟨res, s1⟩, hx, h1⟩ := bind_eq_ok.1 h
    obtain ⟨-, -, hc, hatt, rfl, rfl⟩ := regRead_eq_ok.1 hx
    cases h1
    exact ⟨hc, hatt, by simp [statusReadState, sampledStatus]⟩
  · rintro ⟨hc, hatt, rfl⟩
    rw [regRead_eq_ok.2 ⟨ha, by omega, hc, hatt, rfl, rfl⟩]
    simp [statusReadState, sampledStatus]

theorem classify_status_read {s : State} (hP : s.cfg.wf) : classify s.cfg s.cfg.regStatus = .regRead s.cfg.regStatus := by
  simpa using classify_map_read hP (by simp [Config.mapRegisters])

/-- The byte a status read samples is R50's byte of RADIO as it is at the data exchange, its free bits the second draw
from now; with nothing in flight and the enable line low its flags are those of RADIO before the read. -/
theorem sampledStatus_eq {s : State} (hP : s.cfg.wf) :
    ∃ r, sampledStatus s = some (statusValue s.cfg r (answerAt s 1)) ∧
      (quiet s → r.maxRt = s.radio.maxRt ∧ r.f2 = s.radio.f2 ∧ r.f3 = s.radio.f3) := by
  have hk := classify_status_read hP
  obtain ⟨u, hu⟩ : ∃ u, u = waitFor .tSettle (exchange s.cfg.regStatus (waitFor .tSettle (driveCsnLow s))) := ⟨_, rfl⟩
  have hd : nextAnswer u = answerAt s 1 := by
    have h : DrawsAfter 1 s u := by
      rw [hu]
      exact ⟨by simp, by simp⟩
    rw [← answerAt_zero, answerAt_of_drawsAfter h]
  have hsent : u.radio.sent = [s.cfg.regStatus] := by
    rw [hu]
    simp [radioSelect]
  have hcsn : u.csn = false := by
    rw [hu]
    rfl
  have hcfg : u.cfg = s.cfg := by
    rw [hu]
    rfl
  refine ⟨u.radio, ?_, ?_⟩
  · have hb : sampledStatus s = some (receivedByte u) := by
      simp only [sampledStatus, xactBytes, sentData, readFirst, rdOpcode, BitVec.zero_or, List.replicate,
        exchangeBytes_cons, exchangeBytes_nil, List.getElem?_cons_succ, List.getElem?_cons_zero, hu]
    rw [hb, receivedByte, hcsn, hcfg, hd]
    simp only [Bool.false_eq_true, if_false, radioAnswer, hsent, hk, registerByte, List.length_nil, if_true]
  · rintro ⟨hc, ha⟩
    have h1 : (driveCsnLow s).radio = { s.radio with sent := [], startedBusy := false } := by
      rw [driveCsnLow_radio, hc, foldl_radioAct_quiet]
      · simp [radioSelect, ha]
      · simpa [radioSelect] using ha
    have h2 : (exchangeState .tSettle [s.cfg.regStatus] (driveCsnLow s)).radio =
        { s.radio with sent := [s.cfg.regStatus], startedBusy := false } := by
      rw [exchangeState_quiet _ _ _ (by simp) (by simpa using hc) (by rw [h1]; exact ha), h1]
      rfl
    have h3 : u.radio = { s.radio with sent := [s.cfg.regStatus], startedBusy := false } := by
      rw [hu, waitFor_radio]
      rw [exchangeState_cons, exchangeState_nil] at h2
      rw [h2]
      simp only [exchange_ce, waitFor_ce, driveCsnLow_ce, hc]
      exact foldl_radioAct_quiet _ _ _ ha
    rw [h3]
    exact ⟨rfl, rfl, rfl⟩

/-! ## Recovery (R204, R244) -/

/-- The state after the recovery. -/
def recoveryState (s : State) : State := faultOff (waitFor .tFaultHold (statusResetState (faultOn s)))

section
variable (s : State)
@[simp] theorem recoveryState_cf : (recoveryState s).cf = s.cf := by simp [recoveryState]
@[simp] theorem recoveryState_tf : (recoveryState s).tf = s.tf := by simp [recoveryState]
@[simp] theorem recoveryState_st : (recoveryState s).st = s.st := by simp [recoveryState]
@[simp] theorem recoveryState_rxp : (recoveryState s).rxp = s.rxp := by simp [recoveryState]
@[simp] theorem recoveryState_outcome : (recoveryState s).outcome = s.outcome := by simp [recoveryState]
@[simp] theorem recoveryState_initDone : (recoveryState s).initDone = s.initDone := by simp [recoveryState]
@[simp] theorem recoveryState_phase : (recoveryState s).phase = s.phase := by simp [recoveryState]
@[simp] theorem recoveryState_ce : (recoveryState s).ce = s.ce := by simp [recoveryState]
@[simp] theorem recoveryState_att : (recoveryState s).att = s.att := by simp [recoveryState]
@[simp] theorem recoveryState_faultSig : (recoveryState s).faultSig = false := by simp [recoveryState]
@[simp] theorem recoveryState_irqN : (recoveryState s).irqN = s.irqN := by simp [recoveryState]
@[simp] theorem recoveryState_cfg : (recoveryState s).cfg = s.cfg := by simp [recoveryState]
@[simp] theorem recoveryState_seq : (recoveryState s).seq = s.seq := by simp [recoveryState]
@[simp] theorem recoveryState_inputs : (recoveryState s).inputs = s.inputs := by simp [recoveryState]
@[simp] theorem recoveryState_ret : (recoveryState s).ret = s.ret := by simp [recoveryState]
@[simp] theorem recoveryState_csn : (recoveryState s).csn = true := by simp [recoveryState]
end

theorem recovery_eq_ok {s t : State} (hP : s.cfg.wf) :
    recovery s = .ok t ↔ s.csn = true ∧ s.att = false ∧ t = recoveryState s := by
  unfold recovery
  constructor
  · intro h
    obtain ⟨s1, hx, h1⟩ := bind_eq_ok.1 h
    obtain ⟨hc, ha, rfl⟩ := (statusReset_eq_ok (s := faultOn s) hP).1 hx
    cases h1
    exact ⟨by simpa using hc, by simpa using ha, rfl⟩
  · rintro ⟨hc, ha, rfl⟩
    rw [(statusReset_eq_ok (s := faultOn s) hP).2 ⟨by simpa using hc, by simpa using ha, rfl⟩]
    rfl

theorem handleStatus_eq_ok {b : Byte} {s t : State} (hP : s.cfg.wf) :
    handleStatus b s = .ok t ↔
      (maxRtSet s.cfg b = false ∧ t = { s with outcome := .notFailed }) ∨
        (maxRtSet s.cfg b = true ∧ s.csn = true ∧ s.att = false ∧ t = recoveryState { s with outcome := .maxRt }) := by
  unfold handleStatus outcomeOf
  cases h : maxRtSet s.cfg b
  · refine ⟨fun h => .inl ⟨rfl, (Except.ok.inj h).symm⟩, ?_⟩
    rintro (⟨-, rfl⟩ | ⟨h, -⟩)
    · rfl
    · cases h
  · rw [if_pos rfl, if_pos rfl]
    refine (recovery_eq_ok (s := { s with outcome := .maxRt }) hP).trans ⟨fun h => .inr ⟨rfl, h⟩, ?_⟩
    rintro (⟨h, -⟩ | ⟨-, h⟩)
    · cases h
    · exact h

/-! ## Initialization -/

/-- The state after a sequence of register writes (R140). -/
def writesState (ws : List (Byte × List Byte)) (s : State) : State :=
  ws.foldl (fun s w => xactState (writeFirst s.cfg w.1) (.out w.2) s) s

section WritesState
variable (ws : List (Byte × List Byte))

@[simp] theorem writesState_nil (s : State) : writesState [] s = s := rfl

@[simp] theorem writesState_cons (w : Byte × List Byte) (s : State) :
    writesState (w :: ws) s = writesState ws (xactState (writeFirst s.cfg w.1) (.out w.2) s) := rfl

@[simp] theorem writesState_cf : ∀ s, (writesState ws s).cf = s.cf := by
  induction ws with
  | nil => exact fun _ => rfl
  | cons w ws ih => intro s; simp [ih]

@[simp] theorem writesState_tf : ∀ s, (writesState ws s).tf = s.tf := by
  induction ws with
  | nil => exact fun _ => rfl
  | cons w ws ih => intro s; simp [ih]

@[simp] theorem writesState_st : ∀ s, (writesState ws s).st = s.st := by
  induction ws with
  | nil => exact fun _ => rfl
  | cons w ws ih => intro s; simp [ih]

@[simp] theorem writesState_rxp : ∀ s, (writesState ws s).rxp = s.rxp := by
  induction ws with
  | nil => exact fun _ => rfl
  | cons w ws ih => intro s; simp [ih]

@[simp] theorem writesState_outcome : ∀ s, (writesState ws s).outcome = s.outcome := by
  induction ws with
  | nil => exact fun _ => rfl
  | cons w ws ih => intro s; simp [ih]

@[simp] theorem writesState_initDone : ∀ s, (writesState ws s).initDone = s.initDone := by
  induction ws with
  | nil => exact fun _ => rfl
  | cons w ws ih => intro s; simp [ih]

@[simp] theorem writesState_phase : ∀ s, (writesState ws s).phase = s.phase := by
  induction ws with
  | nil => exact fun _ => rfl
  | cons w ws ih => intro s; simp [ih]

@[simp] theorem writesState_ce : ∀ s, (writesState ws s).ce = s.ce := by
  induction ws with
  | nil => exact fun _ => rfl
  | cons w ws ih => intro s; simp [ih]

@[simp] theorem writesState_att : ∀ s, (writesState ws s).att = s.att := by
  induction ws with
  | nil => exact fun _ => rfl
  | cons w ws ih => intro s; simp [ih]

@[simp] theorem writesState_faultSig : ∀ s, (writesState ws s).faultSig = s.faultSig := by
  induction ws with
  | nil => exact fun _ => rfl
  | cons w ws ih => intro s; simp [ih]

@[simp] theorem writesState_irqN : ∀ s, (writesState ws s).irqN = s.irqN := by
  induction ws with
  | nil => exact fun _ => rfl
  | cons w ws ih => intro s; simp [ih]

@[simp] theorem writesState_cfg : ∀ s, (writesState ws s).cfg = s.cfg := by
  induction ws with
  | nil => exact fun _ => rfl
  | cons w ws ih => intro s; simp [ih]

@[simp] theorem writesState_seq : ∀ s, (writesState ws s).seq = s.seq := by
  induction ws with
  | nil => exact fun _ => rfl
  | cons w ws ih => intro s; simp [ih]

@[simp] theorem writesState_inputs : ∀ s, (writesState ws s).inputs = s.inputs := by
  induction ws with
  | nil => exact fun _ => rfl
  | cons w ws ih => intro s; simp [ih]

@[simp] theorem writesState_ret : ∀ s, (writesState ws s).ret = s.ret := by
  induction ws with
  | nil => exact fun _ => rfl
  | cons w ws ih => intro s; simp [ih]

@[simp] theorem writesState_csn : ∀ s, s.csn = true → (writesState ws s).csn = true := by
  induction ws with
  | nil => exact fun _ h => h
  | cons w ws ih => intro s h; simp [ih]

theorem writesState_padK : ∀ s, s.att = false → (writesState ws s).padK = s.padK := by
  induction ws with
  | nil => exact fun _ _ => rfl
  | cons w ws ih => intro s h; rw [writesState_cons, ih _ (by simpa using h), xactState_padK _ _ _ h]

end WritesState

theorem regWriteAll_idle (ws : List (Byte × List Byte)) :
    ∀ s : State, s.csn = true → s.att = false →
      (∀ w ∈ ws, addressAllowed s.cfg s.cfg.regTxPayload w.1 = true ∧ w.2.length ≤ s.cfg.nMax) →
      regWriteAll ws s = .ok (writesState ws s) := by
  induction ws with
  | nil => exact fun _ _ _ _ => rfl
  | cons w ws ih =>
    intro s hc ha hw
    obtain ⟨a, data⟩ := w
    obtain ⟨h1, h2⟩ := hw (a, data) (by simp)
    simp only [regWriteAll, regWrite_eq_ok.2 ⟨h1, h2, hc, ha, rfl⟩, bind_ok]
    rw [ih _ (by simp) (by simpa using ha) (fun w hmem => by simpa using hw w (by simp [hmem]))]
    rfl

theorem regWriteAll_eq_ok (ws : List (Byte × List Byte)) :
    ∀ s t : State, regWriteAll ws s = .ok t → t = writesState ws s := by
  induction ws with
  | nil => intro s t h; cases h; rfl
  | cons w ws ih =>
    obtain ⟨a, data⟩ := w
    intro s t h
    obtain ⟨s1, hx, h1⟩ := bind_eq_ok.1 h
    obtain ⟨-, -, -, -, rfl⟩ := regWrite_eq_ok.1 hx
    exact ih _ _ h1

/-- The registers of one byte (R41). -/
theorem regWidth_one {P : Config} {a : Byte} (h1 : a ≠ P.regRxAddr) (h2 : a ≠ P.regTxAddr)
    (h : a ∈ [P.regEnAa, P.regSetupRetr, P.regEnRxaddr, P.regSetupAw, P.regRfCh, P.regRfSetup, P.regRxPw,
      P.regConfig, P.regStatus]) : regWidth P a = some 1 := by
  unfold regWidth
  rw [if_neg (by simp [h1, h2]), if_pos h]

/-- Every address INIT writes is a register of the map but not the status register, and every datum has the width of
its register (R41, R140). -/
theorem initWrites_allowed {P : Config} (hP : P.wf) :
    ∀ w ∈ initWrites P, w.1 ∈ P.mapRegisters ∧ w.1 ≠ P.regStatus ∧ regWidth P w.1 = some w.2.length ∧
      w.2.length ≤ P.nMax := by
  have h5 : 5 ≤ P.nMax := hP.2.2.2.2.2
  have hn : P.mapRegisters.Nodup := hP.1.2.1
  have hpre : ∀ a ∈ [P.regConfig, P.regEnAa, P.regEnRxaddr, P.regSetupAw, P.regSetupRetr, P.regRfCh, P.regRfSetup],
      a ≠ P.regStatus ∧ a ≠ P.regRxAddr ∧ a ≠ P.regTxAddr := by
    have h := (List.nodup_append.1 (show ([P.regConfig, P.regEnAa, P.regEnRxaddr, P.regSetupAw, P.regSetupRetr,
      P.regRfCh, P.regRfSetup] ++ [P.regStatus, P.regRxAddr, P.regTxAddr, P.regRxPw, P.regFifoStatus]).Nodup
      from hn)).2.2
    intro a ha
    exact ⟨h a ha _ (by simp), h a ha _ (by simp), h a ha _ (by simp)⟩
  have hpost : P.regRxAddr ≠ P.regStatus ∧ P.regTxAddr ≠ P.regStatus ∧ P.regRxPw ≠ P.regStatus ∧
      P.regRxPw ≠ P.regRxAddr ∧ P.regRxPw ≠ P.regTxAddr := by
    have h := (List.nodup_append.1 (show ([P.regConfig, P.regEnAa, P.regEnRxaddr, P.regSetupAw, P.regSetupRetr,
      P.regRfCh, P.regRfSetup] ++ [P.regStatus, P.regRxAddr, P.regTxAddr, P.regRxPw, P.regFifoStatus]).Nodup
      from hn)).2.1
    simp only [List.nodup_cons, List.mem_cons, List.not_mem_nil, or_false, not_or] at h
    obtain ⟨⟨h1, h2, h3, -⟩, ⟨-, h4, -⟩, ⟨h5, -⟩, -⟩ := h
    exact ⟨Ne.symm h1, Ne.symm h2, Ne.symm h3, Ne.symm h4, Ne.symm h5⟩
  obtain ⟨p1, p2, p3, p4, p5⟩ := hpost
  have hone : ∀ (a v : Byte), a ∈ [P.regConfig, P.regEnAa, P.regEnRxaddr, P.regSetupAw, P.regSetupRetr, P.regRfCh,
      P.regRfSetup] → a ∈ P.mapRegisters ∧ a ≠ P.regStatus ∧ regWidth P a = some [v].length ∧ [v].length ≤ P.nMax := by
    intro a v ha
    obtain ⟨n1, n2, n3⟩ := hpre a ha
    refine ⟨List.mem_append_left [P.regStatus, P.regRxAddr, P.regTxAddr, P.regRxPw, P.regFifoStatus] ha, n1,
      regWidth_one n2 n3 ?_, by simp; omega⟩
    simp only [List.mem_cons, List.not_mem_nil, or_false] at ha ⊢
    rcases ha with h | h | h | h | h | h | h <;> simp [h]
  intro w hw
  simp only [initWrites, List.mem_cons, List.not_mem_nil, or_false] at hw
  rcases hw with rfl | rfl | rfl | rfl | rfl | rfl | rfl | rfl | rfl | rfl
  · exact hone _ _ (by simp)
  · exact hone _ _ (by simp)
  · exact hone _ _ (by simp)
  · exact hone _ _ (by simp)
  · exact hone _ _ (by simp)
  · exact hone _ _ (by simp)
  · exact ⟨by simp [Config.mapRegisters], p1, if_pos (Or.inl rfl), h5⟩
  · exact ⟨by simp [Config.mapRegisters], p2, if_pos (Or.inr rfl), h5⟩
  · exact ⟨by simp [Config.mapRegisters], p3, regWidth_one p4 p5 (by simp), by simp; omega⟩
  · exact hone _ _ (by simp)

/-- The state after INIT (R140, R152). -/
def initState (s : State) : State :=
  { waitFor .tInitSettle (writesState (initWrites s.cfg) s) with initDone := true }

theorem initRadio_eq_ok {s t : State} (hP : s.cfg.wf) (hc : s.csn = true) (ha : s.att = false) :
    initRadio s = .ok t ↔ s.initDone = false ∧ t = initState s := by
  unfold initRadio
  have hw := regWriteAll_idle (initWrites s.cfg) s hc ha fun w hw =>
    ⟨addressAllowed_map hP (initWrites_allowed hP w hw).1 _, (initWrites_allowed hP w hw).2.2.2⟩
  cases s.initDone
  · simp only [Bool.false_eq_true, if_false, hw, bind_ok, true_and, Except.ok.injEq]
    exact eq_comm
  · simp

/-! ## Transmit and receive -/

theorem flushTx_eq_ok {s t : State} :
    flushTx s = .ok t ↔ s.csn = true ∧ s.att = false ∧ t = xactState s.cfg.cmdFlushTx (.out []) s := by
  unfold flushTx
  constructor
  · intro h
    obtain ⟨⟨res, s1⟩, hx, h1⟩ := bind_eq_ok.1 h
    obtain ⟨-, hc, ha, -, rfl⟩ := radioXact_eq_ok.1 hx
    cases h1
    exact ⟨hc, ha, rfl⟩
  · rintro ⟨hc, ha, rfl⟩
    rw [radioXact_idle _ _ hc ha (by simp [XactArg.len])]
    rfl

theorem wTxPayload_eq_ok {p : List Byte} {s t : State} (h5 : 5 ≤ s.cfg.nMax) :
    wTxPayload p s = .ok t ↔
      p.length = 5 ∧ s.csn = true ∧ s.att = false ∧ t = xactState (writeFirst s.cfg s.cfg.regTxPayload) (.out p) s := by
  unfold wTxPayload payloadWidth
  by_cases h : p.length = 5
  · rw [if_pos h, regWrite_eq_ok]
    simp [h, h5, addressAllowed_self]
  · simp [h]

/-- The state after CE_HIGH. -/
def ceHighState (s : State) : State :=
  emit (.ce true) { s with ce := true, radio := radioEnable s.cfg s.envDraws s.radio }

/-- The state after CE_LOW. -/
def ceLowState (s : State) : State := emit (.ce false) { s with ce := false }

/-- The state after the enable pulse (R162 steps 3 to 6). -/
def pulseState (s : State) : State :=
  waitFor .tTxPost (ceLowState (waitFor .tCePulse (ceHighState (waitFor .tTxPre s))))

section
variable (s : State)
@[simp] theorem pulseState_cf : (pulseState s).cf = s.cf := by simp [pulseState, ceLowState, ceHighState]
@[simp] theorem pulseState_tf : (pulseState s).tf = s.tf := by simp [pulseState, ceLowState, ceHighState]
@[simp] theorem pulseState_st : (pulseState s).st = s.st := by simp [pulseState, ceLowState, ceHighState]
@[simp] theorem pulseState_rxp : (pulseState s).rxp = s.rxp := by simp [pulseState, ceLowState, ceHighState]
@[simp] theorem pulseState_outcome : (pulseState s).outcome = s.outcome := by simp [pulseState, ceLowState, ceHighState]
@[simp] theorem pulseState_initDone : (pulseState s).initDone = s.initDone := by simp [pulseState, ceLowState, ceHighState]
@[simp] theorem pulseState_phase : (pulseState s).phase = s.phase := by simp [pulseState, ceLowState, ceHighState]
@[simp] theorem pulseState_ce : (pulseState s).ce = false := by simp [pulseState, ceLowState, ceHighState]
@[simp] theorem pulseState_att : (pulseState s).att = s.att := by simp [pulseState, ceLowState, ceHighState]
@[simp] theorem pulseState_faultSig : (pulseState s).faultSig = s.faultSig := by simp [pulseState, ceLowState, ceHighState]
@[simp] theorem pulseState_irqN : (pulseState s).irqN = s.irqN := by simp [pulseState, ceLowState, ceHighState]
@[simp] theorem pulseState_cfg : (pulseState s).cfg = s.cfg := by simp [pulseState, ceLowState, ceHighState]
@[simp] theorem pulseState_seq : (pulseState s).seq = s.seq := by simp [pulseState, ceLowState, ceHighState]
@[simp] theorem pulseState_inputs : (pulseState s).inputs = s.inputs := by simp [pulseState, ceLowState, ceHighState]
@[simp] theorem pulseState_ret : (pulseState s).ret = s.ret := by simp [pulseState, ceLowState, ceHighState]
@[simp] theorem pulseState_csn : (pulseState s).csn = s.csn := by simp [pulseState, ceLowState, ceHighState]
end

theorem enablePulse_eq_ok {s t : State} :
    enablePulse s = .ok t ↔ s.ce = false ∧ s.csn = true ∧ t = pulseState s := by
  unfold enablePulse
  constructor
  · intro h
    obtain ⟨s1, h1, h⟩ := bind_eq_ok.1 h
    obtain ⟨hce, hc, rfl⟩ := ceHigh_eq_ok.1 h1
    obtain ⟨s2, h2, h⟩ := bind_eq_ok.1 h
    obtain ⟨-, rfl⟩ := ceLow_eq_ok.1 h2
    cases h
    exact ⟨by simpa using hce, by simpa using hc, rfl⟩
  · rintro ⟨hce, hc, rfl⟩
    rw [ceHigh_eq_ok.2 ⟨by simpa using hce, by simpa using hc, rfl⟩, bind_ok,
      ceLow_eq_ok.2 ⟨by simp, rfl⟩]
    rfl

/-- The state after TRANSMIT (R162). -/
def transmitState (p : List Byte) (s : State) : State :=
  pulseState (xactState (writeFirst s.cfg s.cfg.regTxPayload) (.out p) (xactState s.cfg.cmdFlushTx (.out []) s))

section
variable (p : List Byte) (s : State)
@[simp] theorem transmitState_cf : (transmitState p s).cf = s.cf := by simp [transmitState]
@[simp] theorem transmitState_tf : (transmitState p s).tf = s.tf := by simp [transmitState]
@[simp] theorem transmitState_st : (transmitState p s).st = s.st := by simp [transmitState]
@[simp] theorem transmitState_rxp : (transmitState p s).rxp = s.rxp := by simp [transmitState]
@[simp] theorem transmitState_outcome : (transmitState p s).outcome = s.outcome := by simp [transmitState]
@[simp] theorem transmitState_initDone : (transmitState p s).initDone = s.initDone := by simp [transmitState]
@[simp] theorem transmitState_phase : (transmitState p s).phase = s.phase := by simp [transmitState]
@[simp] theorem transmitState_ce : (transmitState p s).ce = false := by simp [transmitState]
@[simp] theorem transmitState_att : (transmitState p s).att = s.att := by simp [transmitState]
@[simp] theorem transmitState_faultSig : (transmitState p s).faultSig = s.faultSig := by simp [transmitState]
@[simp] theorem transmitState_irqN : (transmitState p s).irqN = s.irqN := by simp [transmitState]
@[simp] theorem transmitState_cfg : (transmitState p s).cfg = s.cfg := by simp [transmitState]
@[simp] theorem transmitState_seq : (transmitState p s).seq = s.seq := by simp [transmitState]
@[simp] theorem transmitState_inputs : (transmitState p s).inputs = s.inputs := by simp [transmitState]
@[simp] theorem transmitState_ret : (transmitState p s).ret = s.ret := by simp [transmitState]
@[simp] theorem transmitState_csn : (transmitState p s).csn = true := by simp [transmitState]
end

theorem transmit_eq_ok {p : List Byte} {s t : State} (h5 : 5 ≤ s.cfg.nMax) :
    transmit p s = .ok t ↔
      s.initDone = true ∧ s.cfg.role = .tx ∧ p.length = 5 ∧ s.csn = true ∧ s.att = false ∧ s.ce = false ∧
        t = transmitState p s := by
  unfold transmit
  by_cases hi : s.initDone = true <;> by_cases hr : s.cfg.role = .tx <;> by_cases hl : p.length = 5 <;>
    simp only [hi, hr, hl, payloadWidth, Bool.not_true, Bool.not_false, ne_eq, not_true, not_false_eq_true, if_true,
      if_false, reduceCtorEq, false_and, and_false, true_and]
  all_goals try simp
  constructor
  · intro h
    obtain ⟨s1, h1, h⟩ := bind_eq_ok.1 h
    obtain ⟨hc, ha, rfl⟩ := flushTx_eq_ok.1 h1
    obtain ⟨s2, h2, h⟩ := bind_eq_ok.1 h
    obtain ⟨-, -, -, rfl⟩ := (wTxPayload_eq_ok (by simpa using h5)).1 h2
    obtain ⟨hce, -, rfl⟩ := enablePulse_eq_ok.1 h
    exact ⟨hc, ha, by simpa using hce, by simp [transmitState]⟩
  · rintro ⟨hc, ha, hce, rfl⟩
    rw [flushTx_eq_ok.2 ⟨hc, ha, rfl⟩, bind_ok,
      (wTxPayload_eq_ok (by simpa using h5)).2 ⟨hl, by simp, by simpa using ha, rfl⟩, bind_ok,
      enablePulse_eq_ok.2 ⟨by simpa using hce, by simp, rfl⟩]
    simp [transmitState]

/-- The state after R_RX_PAYLOAD (R165). -/
def rxPayloadState (s : State) : State :=
  storeRxp (xactBytes (readFirst s.cfg.regRxPayload) (.inp 5) s).tail
    (xactState (readFirst s.cfg.regRxPayload) (.inp 5) s)

section
variable (s : State)
@[simp] theorem rxPayloadState_cf : (rxPayloadState s).cf = s.cf := by simp [rxPayloadState]
@[simp] theorem rxPayloadState_tf : (rxPayloadState s).tf = s.tf := by simp [rxPayloadState]
@[simp] theorem rxPayloadState_st : (rxPayloadState s).st = s.st := by simp [rxPayloadState]
@[simp] theorem rxPayloadState_outcome : (rxPayloadState s).outcome = s.outcome := by simp [rxPayloadState]
@[simp] theorem rxPayloadState_initDone : (rxPayloadState s).initDone = s.initDone := by simp [rxPayloadState]
@[simp] theorem rxPayloadState_phase : (rxPayloadState s).phase = s.phase := by simp [rxPayloadState]
@[simp] theorem rxPayloadState_ce : (rxPayloadState s).ce = s.ce := by simp [rxPayloadState]
@[simp] theorem rxPayloadState_att : (rxPayloadState s).att = s.att := by simp [rxPayloadState]
@[simp] theorem rxPayloadState_faultSig : (rxPayloadState s).faultSig = s.faultSig := by simp [rxPayloadState]
@[simp] theorem rxPayloadState_irqN : (rxPayloadState s).irqN = s.irqN := by simp [rxPayloadState]
@[simp] theorem rxPayloadState_cfg : (rxPayloadState s).cfg = s.cfg := by simp [rxPayloadState]
@[simp] theorem rxPayloadState_seq : (rxPayloadState s).seq = s.seq := by simp [rxPayloadState]
@[simp] theorem rxPayloadState_inputs : (rxPayloadState s).inputs = s.inputs := by simp [rxPayloadState]
@[simp] theorem rxPayloadState_ret : (rxPayloadState s).ret = s.ret := by simp [rxPayloadState]
@[simp] theorem rxPayloadState_csn : (rxPayloadState s).csn = true := by simp [rxPayloadState]
end

theorem rRxPayload_eq_ok {s t : State} (h5 : 5 ≤ s.cfg.nMax) :
    rRxPayload s = .ok t ↔ s.csn = true ∧ s.att = false ∧ t = rxPayloadState s := by
  unfold rRxPayload payloadWidth
  constructor
  · intro h
    obtain ⟨⟨res, s1⟩, hx, h1⟩ := bind_eq_ok.1 h
    obtain ⟨-, -, hc, ha, rfl, rfl⟩ := regRead_eq_ok.1 hx
    cases h1
    exact ⟨hc, ha, rfl⟩
  · rintro ⟨hc, ha, rfl⟩
    rw [regRead_eq_ok.2 ⟨addressAllowed_self _ _, h5, hc, ha, rfl, rfl⟩]
    rfl

/-- The state after RECEIVE (R166). -/
def receiveState (s : State) : State :=
  statusResetState (rxPayloadState (ceLowState (waitFor .tRxListen (ceHighState s))))

theorem receive_eq_ok {s t : State} (hP : s.cfg.wf) :
    receive s = .ok t ↔
      s.initDone = true ∧ s.cfg.role = .rx ∧ s.ce = false ∧ s.csn = true ∧ s.att = false ∧ t = receiveState s := by
  have h5 : 5 ≤ s.cfg.nMax := hP.2.2.2.2.2
  unfold receive
  by_cases hi : s.initDone = true <;> by_cases hr : s.cfg.role = .rx <;>
    simp only [hi, hr, Bool.not_true, Bool.not_false, ne_eq, not_true, not_false_eq_true, if_true, if_false,
      reduceCtorEq, false_and, and_false, true_and]
  all_goals try simp
  constructor
  · intro h
    obtain ⟨s1, h1, h⟩ := bind_eq_ok.1 h
    obtain ⟨hce, hc, rfl⟩ := ceHigh_eq_ok.1 h1
    obtain ⟨s2, h2, h⟩ := bind_eq_ok.1 h
    obtain ⟨-, rfl⟩ := ceLow_eq_ok.1 h2
    obtain ⟨s3, h3, h⟩ := bind_eq_ok.1 h
    obtain ⟨-, ha, rfl⟩ := (rRxPayload_eq_ok (by simpa using h5)).1 h3
    obtain ⟨-, -, rfl⟩ := (statusReset_eq_ok (by simpa [rxPayloadState] using hP)).1 h
    exact ⟨hce, hc, by simpa using ha, rfl⟩
  · rintro ⟨hce, hc, ha, rfl⟩
    rw [ceHigh_eq_ok.2 ⟨hce, hc, rfl⟩, bind_ok, ceLow_eq_ok.2 ⟨by simp, rfl⟩, bind_ok,
      (rRxPayload_eq_ok (by simpa using h5)).2 ⟨by simpa using hc, by simpa using ha, rfl⟩, bind_ok,
      (statusReset_eq_ok (by simpa [rxPayloadState] using hP)).2
        ⟨by simp [rxPayloadState], by simpa [rxPayloadState] using ha, rfl⟩]
    rfl

/-! ## Controller poll -/

/-- The state after ATT_ASSERT. -/
def attAssertState (s : State) : State := emit (.att true) { s with att := true, padK := 0 }

/-- The state after POLL (R180, R187). -/
def pollState (s : State) : State :=
  { emit (.att false) { exchangeState .tPadSettle pollSent (attAssertState s) with att := false } with
    cf := decodeFrame (answersFrom s 9) }

theorem attAssertState_draws (s : State) : DrawsAfter 0 s (attAssertState s) := ⟨by simp [attAssertState], by simp [attAssertState]⟩

section
variable (s : State)
@[simp] theorem pollState_cf : (pollState s).cf = decodeFrame (answersFrom s 9) := by simp [pollState, attAssertState]
@[simp] theorem pollState_tf : (pollState s).tf = s.tf := by simp [pollState, attAssertState]
@[simp] theorem pollState_st : (pollState s).st = s.st := by simp [pollState, attAssertState]
@[simp] theorem pollState_rxp : (pollState s).rxp = s.rxp := by simp [pollState, attAssertState]
@[simp] theorem pollState_outcome : (pollState s).outcome = s.outcome := by simp [pollState, attAssertState]
@[simp] theorem pollState_initDone : (pollState s).initDone = s.initDone := by simp [pollState, attAssertState]
@[simp] theorem pollState_phase : (pollState s).phase = s.phase := by simp [pollState, attAssertState]
@[simp] theorem pollState_ce : (pollState s).ce = s.ce := by simp [pollState, attAssertState]
@[simp] theorem pollState_att : (pollState s).att = false := by simp [pollState, attAssertState]
@[simp] theorem pollState_faultSig : (pollState s).faultSig = s.faultSig := by simp [pollState, attAssertState]
@[simp] theorem pollState_irqN : (pollState s).irqN = s.irqN := by simp [pollState, attAssertState]
@[simp] theorem pollState_cfg : (pollState s).cfg = s.cfg := by simp [pollState, attAssertState]
@[simp] theorem pollState_seq : (pollState s).seq = s.seq := by simp [pollState, attAssertState]
@[simp] theorem pollState_inputs : (pollState s).inputs = s.inputs := by simp [pollState, attAssertState]
@[simp] theorem pollState_ret : (pollState s).ret = s.ret := by simp [pollState, attAssertState]
@[simp] theorem pollState_csn : (pollState s).csn = s.csn := by simp [pollState, attAssertState]
end

theorem poll_eq_ok {s t : State} : poll s = .ok t ↔ s.csn = true ∧ s.att = false ∧ t = pollState s := by
  unfold poll
  have hb : s.csn = true → exchangeBytes .tPadSettle pollSent (attAssertState s) = answersFrom s 9 := by
    intro hc
    rw [exchangeBytes_pad _ _ _ (by simpa [attAssertState] using hc)]
    rfl
  constructor
  · intro h
    obtain ⟨s1, h1, h⟩ := bind_eq_ok.1 h
    obtain ⟨hc, ha, rfl⟩ := attAssert_eq_ok.1 h1
    obtain ⟨⟨r, s2⟩, h2, h⟩ := bind_eq_ok.1 h
    rw [exchangeAll_selected _ _ _ (by simpa using hc)] at h2
    cases h2
    obtain ⟨s3, h3, h⟩ := bind_eq_ok.1 h
    obtain ⟨-, rfl⟩ := attRelease_eq_ok.1 h3
    cases h
    exact ⟨hc, ha, by rw [pollState, ← hb hc]; rfl⟩
  · rintro ⟨hc, ha, rfl⟩
    rw [attAssert_eq_ok.2 ⟨hc, ha, rfl⟩, bind_ok, exchangeAll_selected _ _ _ (by simpa using hc)]
    simp only [bind_ok]
    rw [attRelease_eq_ok.2 ⟨by simp, rfl⟩, pollState, ← hb hc]
    rfl

theorem padExchange_eq_ok {k : Nat} {b : Byte} {s t : State} :
    padExchange k s = .ok (b, t) ↔
      s.csn = s.att ∧ b = receivedByte (waitFor .tPadSettle s) ∧ t = exchange (padSent k) (waitFor .tPadSettle s) := by
  unfold padExchange
  rw [xfer_eq_ok]
  simp

theorem padCapture_eq_ok {k : Nat} {bytes : List Byte} {s t : State} :
    padCapture k s = .ok (bytes, t) ↔
      s.csn = s.att ∧ bytes = padDecoded k (receivedByte (waitFor .tPadSettle s)) ∧
        t = exchange (padSent k) (waitFor .tPadSettle s) := by
  unfold padCapture
  rw [map_eq_ok]
  constructor
  · rintro ⟨⟨r, u⟩, hx, h⟩
    obtain ⟨hs, rfl, rfl⟩ := padExchange_eq_ok.1 hx
    cases h
    exact ⟨hs, rfl, rfl⟩
  · rintro ⟨hs, rfl, rfl⟩
    exact ⟨_, padExchange_eq_ok.2 ⟨hs, rfl, rfl⟩, rfl⟩

/-! ## The loop -/

theorem packFrame_eq_ok {s t : State} :
    packFrame s = .ok t ↔ ∃ b lx ly, s.cf.buttons = some b ∧ s.cf.lx = some lx ∧ s.cf.ly = some ly ∧
      t = { s with tf := some (frameOf b lx ly) } := by
  unfold packFrame
  cases s.cf.buttons <;> cases s.cf.lx <;> cases s.cf.ly <;> simp [eq_comm]

/-! ## giveDataByte -/

@[simp] theorem giveDataByte_cf (b : Byte) (s : State) : (giveDataByte b s).cf = s.cf := rfl
@[simp] theorem giveDataByte_tf (b : Byte) (s : State) : (giveDataByte b s).tf = s.tf := rfl
@[simp] theorem giveDataByte_st (b : Byte) (s : State) : (giveDataByte b s).st = s.st := rfl
@[simp] theorem giveDataByte_rxp (b : Byte) (s : State) : (giveDataByte b s).rxp = s.rxp := rfl
@[simp] theorem giveDataByte_outcome (b : Byte) (s : State) : (giveDataByte b s).outcome = s.outcome := rfl
@[simp] theorem giveDataByte_initDone (b : Byte) (s : State) : (giveDataByte b s).initDone = s.initDone := rfl
@[simp] theorem giveDataByte_phase (b : Byte) (s : State) : (giveDataByte b s).phase = s.phase := rfl
@[simp] theorem giveDataByte_csn (b : Byte) (s : State) : (giveDataByte b s).csn = s.csn := rfl
@[simp] theorem giveDataByte_ce (b : Byte) (s : State) : (giveDataByte b s).ce = s.ce := rfl
@[simp] theorem giveDataByte_att (b : Byte) (s : State) : (giveDataByte b s).att = s.att := rfl
@[simp] theorem giveDataByte_faultSig (b : Byte) (s : State) : (giveDataByte b s).faultSig = s.faultSig := rfl
@[simp] theorem giveDataByte_trace (b : Byte) (s : State) : (giveDataByte b s).trace = s.trace := rfl
@[simp] theorem giveDataByte_radio (b : Byte) (s : State) : (giveDataByte b s).radio = s.radio := rfl
@[simp] theorem giveDataByte_padK (b : Byte) (s : State) : (giveDataByte b s).padK = s.padK := rfl
@[simp] theorem giveDataByte_irqN (b : Byte) (s : State) : (giveDataByte b s).irqN = s.irqN := rfl
@[simp] theorem giveDataByte_cfg (b : Byte) (s : State) : (giveDataByte b s).cfg = s.cfg := rfl
@[simp] theorem giveDataByte_seq (b : Byte) (s : State) : (giveDataByte b s).seq = s.seq := rfl
@[simp] theorem giveDataByte_inputs (b : Byte) (s : State) : (giveDataByte b s).inputs = s.inputs := rfl
@[simp] theorem giveDataByte_ret (b : Byte) (s : State) : (giveDataByte b s).ret = s.ret := rfl
@[simp] theorem giveDataByte_byteDraws (b : Byte) (s : State) : (giveDataByte b s).byteDraws = s.byteDraws := rfl
@[simp] theorem giveDataByte_plan (b : Byte) (s : State) : (giveDataByte b s).plan = s.plan := rfl
@[simp] theorem giveDataByte_envDraws (b : Byte) (s : State) : (giveDataByte b s).envDraws = s.envDraws := rfl

/-- The given byte is the second draw from now; the first is as it was (log 20). -/
theorem giveDataByte_answerAt (b : Byte) (s : State) :
    answerAt (giveDataByte b s) 0 = answerAt s 0 ∧ answerAt (giveDataByte b s) 1 = b := by
  simp [answerAt, giveDataByte, nextAnswer, List.head?_eq_getElem?]

theorem faultcheck_eq_ok {s t : State} (hP : s.cfg.wf) :
    faultcheck s = .ok t ↔ s.initDone = true ∧ s.csn = true ∧ s.att = false ∧
      ∃ b, sampledStatus s = some b ∧ handleStatus b (statusReadState s) = .ok t := by
  unfold faultcheck
  cases hi : s.initDone
  · simp
  · simp only [Bool.not_true, Bool.false_eq_true, if_false, true_and]
    obtain ⟨b, hb⟩ := sampledStatus_isSome s
    constructor
    · intro h
      obtain ⟨s1, h1, h⟩ := bind_eq_ok.1 h
      obtain ⟨hc, ha, rfl⟩ := (statusRead_eq_ok hP).1 h1
      refine ⟨hc, ha, b, hb, ?_⟩
      simpa [statusReadState, hb] using h
    · rintro ⟨hc, ha, b, hb, h⟩
      rw [(statusRead_eq_ok hP).2 ⟨hc, ha, rfl⟩]
      simpa [statusReadState, hb] using h

end Sys2Proof.Machine
end

