-- ==== Sys2Proof/Laws/Traces.lean ====
section
/-! SUPPORT. What the readings of a trace say of the events of an exchange, a transaction and a poll. -/

namespace Sys2Proof.Safety

open Sys2Proof.Machine

theorem exchangeEvents_length (t : TimeParam) :
    ∀ txs rxs : List Byte, txs.length = rxs.length → (exchangeEvents t txs rxs).length = 2 * txs.length := by
  intro txs
  induction txs with
  | nil => exact fun _ _ => rfl
  | cons tx txs ih =>
    intro rxs h
    cases rxs with
    | nil => cases h
    | cons rx rxs =>
      simp only [exchangeEvents, List.length_cons, ih rxs (by simpa using h)]
      omega

/-- A transaction of n + 1 bytes is 2n + 4 events (R120). -/
theorem xactEvents_length {sent received : List Byte} (h : sent.length = received.length) :
    (xactEvents sent received).length = 2 * sent.length + 2 := by
  simp only [xactEvents, List.cons_append, List.length_cons, List.length_append, List.length_nil,
    exchangeEvents_length _ _ _ h]

/-! ## radioBrackets -/

theorem radioBrackets_exchange (t : TimeParam) (es : List Event) :
    ∀ (txs rxs sofar : List Byte), txs.length = rxs.length →
      radioBrackets (some sofar) (exchangeEvents t txs rxs ++ es) = radioBrackets (some (sofar ++ txs)) es := by
  intro txs
  induction txs with
  | nil => intro rxs sofar _; simp [exchangeEvents]
  | cons tx txs ih =>
    intro rxs sofar h
    cases rxs with
    | nil => cases h
    | cons rx rxs =>
      simp only [exchangeEvents, List.cons_append, radioBrackets]
      rw [ih rxs _ (by simpa using h)]
      simp

/-- One transaction is one bracket of the bytes sent (R48). -/
theorem radioBrackets_xact {sent received : List Byte} (h : sent.length = received.length) (o : Option (List Byte))
    (es : List Event) : radioBrackets o (xactEvents sent received ++ es) = sent :: radioBrackets none es := by
  simp only [xactEvents, List.cons_append, radioBrackets, List.append_assoc]
  rw [radioBrackets_exchange _ _ _ _ _ h]
  simp [radioBrackets]

theorem radioBrackets_closed_exchange (t : TimeParam) (es : List Event) :
    ∀ (txs rxs : List Byte), radioBrackets none (exchangeEvents t txs rxs ++ es) = radioBrackets none es := by
  intro txs
  induction txs with
  | nil => intro rxs; simp [exchangeEvents]
  | cons tx txs ih =>
    intro rxs
    cases rxs with
    | nil => simp [exchangeEvents]
    | cons rx rxs => simp [exchangeEvents, radioBrackets, ih]

/-- A poll has no radio bracket (R27). -/
theorem radioBrackets_poll (received : List Byte) (es : List Event) :
    radioBrackets none (pollEvents received ++ es) = radioBrackets none es := by
  simp only [pollEvents, List.cons_append, radioBrackets, List.append_assoc, radioBrackets_closed_exchange,
    List.nil_append]

/-! ## pollBrackets -/

theorem pollBrackets_exchange (t : TimeParam) (es : List Event) :
    ∀ (txs rxs sofar : List Byte), txs.length = rxs.length →
      pollBrackets (some sofar) (exchangeEvents t txs rxs ++ es) = pollBrackets (some (sofar ++ rxs)) es := by
  intro txs
  induction txs with
  | nil =>
    intro rxs sofar h
    cases rxs with
    | nil => simp [exchangeEvents]
    | cons => cases h
  | cons tx txs ih =>
    intro rxs sofar h
    cases rxs with
    | nil => cases h
    | cons rx rxs =>
      simp only [exchangeEvents, List.cons_append, pollBrackets]
      rw [ih rxs _ (by simpa using h)]
      simp

/-- One poll is one bracket of the bytes received (R56). -/
theorem pollBrackets_poll {received : List Byte} (h : received.length = 9) (o : Option (List Byte)) (es : List Event) :
    pollBrackets o (pollEvents received ++ es) = received :: pollBrackets none es := by
  simp only [pollEvents, List.cons_append, pollBrackets, List.append_assoc]
  rw [pollBrackets_exchange _ _ _ _ _ (by rw [h]; rfl)]
  simp [pollBrackets]

theorem pollBrackets_closed_exchange (t : TimeParam) (es : List Event) :
    ∀ (txs rxs : List Byte), pollBrackets none (exchangeEvents t txs rxs ++ es) = pollBrackets none es := by
  intro txs
  induction txs with
  | nil => intro rxs; simp [exchangeEvents]
  | cons tx txs ih =>
    intro rxs
    cases rxs with
    | nil => simp [exchangeEvents]
    | cons rx rxs => simp [exchangeEvents, pollBrackets, ih]

/-- A radio transaction is no poll (R27). -/
theorem pollBrackets_xact (sent received : List Byte) (es : List Event) :
    pollBrackets none (xactEvents sent received ++ es) = pollBrackets none es := by
  simp only [xactEvents, List.cons_append, pollBrackets, List.append_assoc, pollBrackets_closed_exchange,
    List.nil_append]

/-! ## waitTime -/

@[simp] theorem waitTime_append (P : Config) (es fs : List Event) :
    waitTime P (es ++ fs) = waitTime P es + waitTime P fs := by
  induction es with
  | nil => simp [waitTime]
  | cons e es ih => cases e <;> simp [waitTime, ih, Nat.add_assoc]

theorem waitTime_exchange (P : Config) (t : TimeParam) :
    ∀ txs rxs : List Byte, txs.length = rxs.length →
      waitTime P (exchangeEvents t txs rxs) = txs.length * P.duration t := by
  intro txs
  induction txs with
  | nil => intro rxs _; simp [exchangeEvents, waitTime]
  | cons tx txs ih =>
    intro rxs h
    cases rxs with
    | nil => cases h
    | cons rx rxs =>
      simp only [exchangeEvents, waitTime, ih rxs (by simpa using h), List.length_cons]
      rw [Nat.add_mul, Nat.one_mul, Nat.add_comm]

/-! ## The monitor -/

theorem monitorRun_append (m : Monitor) (es fs : List Event) :
    monitorRun m (es ++ fs) = (monitorRun m es).bind fun m1 => monitorRun m1 fs := by
  induction es generalizing m with
  | nil => rfl
  | cons e es ih =>
    simp only [List.cons_append, monitorRun]
    cases monitorStep m e with
    | none => rfl
    | some m1 => exact ih m1

/-- Radio bytes inside a `csn` bracket, each after its settling wait (R270). -/
theorem monitorRun_radio_exchange (ce : Bool) :
    ∀ (txs rxs : List Byte) (o : Option TimeParam), ∃ o1,
      monitorRun ⟨false, ce, false, o⟩ (exchangeEvents .tSettle txs rxs) = some ⟨false, ce, false, o1⟩ := by
  intro txs
  induction txs with
  | nil => exact fun _ o => ⟨o, rfl⟩
  | cons tx txs ih =>
    intro rxs o
    cases rxs with
    | nil => exact ⟨o, rfl⟩
    | cons rx rxs => exact ih rxs none

/-- Controller bytes inside an `att` bracket, each after its settling wait (R271). -/
theorem monitorRun_pad_exchange (ce : Bool) :
    ∀ (txs rxs : List Byte) (o : Option TimeParam), ∃ o1,
      monitorRun ⟨true, ce, true, o⟩ (exchangeEvents .tPadSettle txs rxs) = some ⟨true, ce, true, o1⟩ := by
  intro txs
  induction txs with
  | nil => exact fun _ o => ⟨o, rfl⟩
  | cons tx txs ih =>
    intro rxs o
    cases rxs with
    | nil => exact ⟨o, rfl⟩
    | cons rx rxs => exact ih rxs none

/-- A transaction keeps the discipline and closes its bracket (R125, R272). -/
theorem monitorRun_xact (sent received : List Byte) (ce : Bool) (o : Option TimeParam) :
    monitorRun ⟨true, ce, false, o⟩ (xactEvents sent received) = some ⟨true, ce, false, none⟩ := by
  obtain ⟨o1, h⟩ := monitorRun_radio_exchange ce sent received none
  simp [xactEvents, monitorRun, monitorStep, monitorRun_append, h]

/-- A poll keeps the discipline and closes its bracket (R180, R272). -/
theorem monitorRun_poll (received : List Byte) (ce : Bool) (o : Option TimeParam) :
    monitorRun ⟨true, ce, false, o⟩ (pollEvents received) = some ⟨true, ce, false, none⟩ := by
  obtain ⟨o1, h⟩ := monitorRun_pad_exchange ce pollSent received none
  simp [pollEvents, monitorRun, monitorStep, monitorRun_append, h]

end Sys2Proof.Safety
end

