-- ==== Sys2Proof/Tests/Slice0.lean ====
section
/-! SUPPORT. Small tests. Expected results are those of spec/95_test_vectors.md (the vector is named) or are written out
from the encodings of spec/30_encoding.md; none is the model's own answer. Then, for every statement that has hypotheses,
a state and operands that meet them. -/

namespace Sys2Proof.Tests

open Sys2Proof Sys2Proof.Machine Sys2Proof.Safety

/-- A radio with nothing set, nothing queued and nothing in flight. -/
def radio0 : Radio := ⟨[], false, false, false, [], [], .idle, [], false⟩

/-- The fresh state of the vectors, the devices fixed: what TRANSPORT returns is given (then zeros), and RADIO does nothing
by itself. -/
def fresh (answers : List Byte) : State :=
  { State.reset with radio := radio0, answers := answers ++ List.replicate 20 0#8, plan := List.replicate 120 [] }

/-- The ready state of the vectors, transmitter role. -/
def ready (answers : List Byte) : State :=
  { fresh answers with initDone := true, radio := { radio0 with rreg := [(0, [0x0E#8])] } }

/-- The ready state, receiver role. -/
def readyRx (answers : List Byte) : State :=
  { fresh answers with
    initDone := true
    cfg := { Config.pGK with role := .rx }
    radio := { radio0 with rreg := [(0, [0x0F#8])] } }

/-- A reading of the next state, if there is one. -/
def next? {α : Type} (o : Host.Outcome State Fault Refusal) (f : State → α) : Option α :=
  match o with
  | .next t => some (f t)
  | .fault _ => none
  | .refused _ => none

/-- The stop of an outcome, if it is one. -/
def stop? : Host.Outcome State Fault Refusal → Option Stop
  | .next _ => none
  | .fault f => some (.fault f)
  | .refused r => some (.refuse r)

/-! ## WellFormed: an ill-formed term for each check -/

theorem test_wf_regRead_address : Instr.wf Config.pGK (.regRead 0x20#8 1) = false := by decide
theorem test_wf_regRead_length : Instr.wf Config.pGK (.regRead 0x07#8 6) = false := by decide
theorem test_wf_regWrite_address : Instr.wf Config.pGK (.regWrite 0x27#8 [0#8]) = false := by decide
theorem test_wf_regWrite_length : Instr.wf Config.pGK (.regWrite 0x07#8 (List.replicate 6 0#8)) = false := by decide
theorem test_wf_wTxPayload_length : Instr.wf Config.pGK (.wTxPayload (List.replicate 4 0#8)) = false := by decide
theorem test_wf_transmit_length : Instr.wf Config.pGK (.transmit (List.replicate 6 0#8)) = false := by decide
theorem test_wf_radioXact_length : Instr.wf Config.pGK (.radioXact 0x07#8 (.inp 6)) = false := by decide
theorem test_wf_radioRRegister_address : Instr.wf Config.pGK (.radioRRegister 0x20#8 1) = false := by decide
theorem test_wf_radioRRegister_command :
    Instr.wf { Config.pGK with regRxPayload := 0x1D#8 } (.radioRRegister 0x1D#8 1) = false := by decide
theorem test_wf_radioRRegister_none : Instr.wf Config.pGK (.radioRRegister 0x07#8 0) = false := by decide
theorem test_wf_radioRRegister_length : Instr.wf Config.pGK (.radioRRegister 0x07#8 6) = false := by decide
theorem test_wf_radioWRegister_address : Instr.wf Config.pGK (.radioWRegister 0x21#8 [0#8]) = false := by decide
theorem test_wf_radioWRegister_command : Instr.wf Config.pGK (.radioWRegister 0xC1#8 [0#8]) = false := by decide
theorem test_wf_radioWRegister_none : Instr.wf Config.pGK (.radioWRegister 0x07#8 []) = false := by decide
theorem test_wf_radioWRegister_length :
    Instr.wf Config.pGK (.radioWRegister 0x0A#8 (List.replicate 6 0#8)) = false := by decide

/-! ## Decode: words written out from the encodings (R72 to R87, P_GK) -/

theorem test_decode_regRead : decode Config.pGK ⟨.opsel, [0b0000#8, 0x07#8, 1#8]⟩ = .ok (.regRead 0x07#8 1) := by decide
theorem test_decode_regWrite :
    decode Config.pGK ⟨.opsel, [0b0001#8, 0x05#8, 0x4C#8]⟩ = .ok (.regWrite 0x05#8 [0x4C#8]) := by decide
theorem test_decode_statusReset : decode Config.pGK ⟨.opsel, [0b0010#8]⟩ = .ok .statusReset := by decide
theorem test_decode_statusRead : decode Config.pGK ⟨.opsel, [0b0011#8]⟩ = .ok .statusRead := by decide
theorem test_decode_init : decode Config.pGK ⟨.opsel, [0b0100#8]⟩ = .ok .init := by decide
theorem test_decode_flushTx : decode Config.pGK ⟨.opsel, [0b0101#8]⟩ = .ok .flushTx := by decide
theorem test_decode_wTxPayload :
    decode Config.pGK ⟨.opsel, [0b0110#8, 1#8, 2#8, 3#8, 4#8, 5#8]⟩ = .ok (.wTxPayload [1#8, 2#8, 3#8, 4#8, 5#8]) := by
  decide
theorem test_decode_transmit :
    decode Config.pGK ⟨.opsel, [0b0111#8, 1#8, 2#8, 3#8, 4#8, 5#8]⟩ = .ok (.transmit [1#8, 2#8, 3#8, 4#8, 5#8]) := by
  decide
theorem test_decode_rRxPayload : decode Config.pGK ⟨.opsel, [0b1000#8]⟩ = .ok .rRxPayload := by decide
theorem test_decode_receive : decode Config.pGK ⟨.opsel, [0b1001#8]⟩ = .ok .receive := by decide
theorem test_decode_poll : decode Config.pGK ⟨.opsel, [0b1010#8]⟩ = .ok .poll := by decide
theorem test_decode_pack : decode Config.pGK ⟨.opsel, [0b1011#8]⟩ = .ok .pack := by decide
theorem test_decode_faultcheck : decode Config.pGK ⟨.opsel, [0b1100#8]⟩ = .ok .faultcheck := by decide
theorem test_decode_waitCycle : decode Config.pGK ⟨.opsel, [0b1101#8]⟩ = .ok .waitCycle := by decide
theorem test_decode_cycle : decode Config.pGK ⟨.opsel, [0b1110#8]⟩ = .ok .cycle := by decide
theorem test_decode_opselReserved :
    decode Config.pGK ⟨.opsel, [0b1111#8]⟩ = .ok .opselReserved ∧
      decode Config.pGK ⟨.opsel, [0b1111#8, 7#8]⟩ = .ok .opselReserved := by decide
theorem test_decode_radioRRegister :
    decode Config.pGK ⟨.radioXact, [0b00000111#8, 0xFF#8]⟩ = .ok (.radioRRegister 0x07#8 1) := by decide
theorem test_decode_radioWRegister :
    decode Config.pGK ⟨.radioXact, [0b00110000#8, 1#8, 2#8, 3#8, 4#8, 5#8]⟩ =
      .ok (.radioWRegister 0x10#8 [1#8, 2#8, 3#8, 4#8, 5#8]) := by decide
theorem test_decode_radioFlushTx : decode Config.pGK ⟨.radioXact, [0b11100001#8]⟩ = .ok .radioFlushTx := by decide
theorem test_decode_radioWTxPayload :
    decode Config.pGK ⟨.radioXact, [0b10100000#8, 1#8, 2#8, 3#8, 4#8, 5#8]⟩ =
      .ok (.radioWTxPayload ⟨1#8, 2#8, 3#8, 4#8, 5#8⟩) := by decide
theorem test_decode_radioRRxPayload :
    decode Config.pGK ⟨.radioXact, [0b01100001#8, 0xFF#8, 0xFF#8, 0xFF#8, 0xFF#8, 0xFF#8]⟩ = .ok .radioRRxPayload := by
  decide
theorem test_decode_padPollCmd : decode Config.pGK ⟨.padXchg 0, [0b00000001#8]⟩ = .ok .padPollCmd := by decide
theorem test_decode_padReadyCmd : decode Config.pGK ⟨.padXchg 1, [0b01000010#8]⟩ = .ok .padReadyCmd := by decide
theorem test_decode_padFill : decode Config.pGK ⟨.padXchg 2, [0b00000000#8]⟩ = .ok .padFill := by decide
theorem test_decode_padNop :
    (List.range 6).map (fun k => decode Config.pGK ⟨.padXchg (3 + k), [0b11111111#8]⟩) =
      [.ok (.padNop .buttonsHigh), .ok (.padNop .buttonsLow), .ok (.padNop .rightX), .ok (.padNop .rightY),
        .ok (.padNop .leftX), .ok (.padNop .leftY)] := by decide
theorem test_decode_tframe :
    decode Config.pGK ⟨.tframe, [0xC3#8, 0x5A#8, 0xAA#8, 0x55#8, 0x00#8]⟩ =
      .ok (.tframe 0xC3#8 0x5A#8 0xAA#8 0x55#8) := by decide
theorem test_decode_statusByte : decode Config.pGK ⟨.status, [0x1E#8]⟩ = .ok (.statusByte 0x1E#8) := by decide

/-! Reserved and foreign words are rejected by name. -/

theorem test_decode_refuses_high_code : decode Config.pGK ⟨.opsel, [0x1A#8]⟩ = .error .opselHighBits := by decide
theorem test_decode_refuses_pad_byte : decode Config.pGK ⟨.padXchg 1, [0x43#8]⟩ = .error .padByte := by decide
theorem test_decode_refuses_pad_position : decode Config.pGK ⟨.padXchg 9, [0xFF#8]⟩ = .error .padPosition := by decide
theorem test_decode_refuses_tframe_reserved :
    decode Config.pGK ⟨.tframe, [0#8, 0#8, 0#8, 0#8, 1#8]⟩ = .error .tframeReserved := by decide

/-! Words as spec/opcode_table.json numbers them: byte 0 in the low bits. -/

theorem test_word_tframe : decodeTableWord 40 0x00558AAA01 = some (.tframe 0x01#8 0xAA#8 0x8A#8 0x55#8) := by decide
theorem test_word_opsel : decodeTableWord 4 10 = some .poll := by decide
theorem test_word_radio : decodeTableWord 8 0x25 = some (.radioWRegister 0x05#8 [0#8]) := by decide

/-- The codes of R232 to R241. -/
theorem test_stop_codes :
    [Fault.busContention, .noTarget, .selectNesting].map faultCode = [2, 3, 4] ∧
      [Refusal.uninitRead, .lenRange, .addrHasOpcodeBit, .reinit, .notInitialised, .roleMismatch, .unknownOp].map
        refusalCode = [some 1, some 5, some 6, some 7, some 8, some 9, some 10] := by decide

/-! ## Micro-operations (V-MIC) -/

/-- V-MIC-6. -/
theorem test_xfer_radio :
    next? (exec (.xfer 0x55#8) { fresh [0xAB#8] with csn := false }) (fun t => (t.trace, t.ret)) =
      some ([.xfer 0x55#8 0xAB#8], [0xAB#8]) := by decide
/-- V-MIC-5. -/
theorem test_xfer_no_target : stop? (exec (.xfer 0x55#8) (fresh [])) = some (.fault .noTarget) := by decide
/-- V-MIC-12. -/
theorem test_wait : next? (exec (.wait .tCycle) (fresh [])) (·.trace) = some [.wait .tCycle] := by decide
/-- V-MIC-1. -/
theorem test_csnEnable : next? (exec .csnEnable (fresh [])) (fun t => (t.csn, t.trace)) = some (false, [.csn false]) := by
  decide
/-- V-MIC-2, V-MIC-3. -/
theorem test_csnEnable_stops :
    stop? (exec .csnEnable { fresh [] with csn := false }) = some (.fault .selectNesting) ∧
      stop? (exec .csnEnable { fresh [] with att := true }) = some (.fault .busContention) := by decide
/-- V-MIC-4. -/
theorem test_csnDisable_stops : stop? (exec .csnDisable (fresh [])) = some (.fault .selectNesting) := by decide
/-- R103, R49: the data of a one-byte write is held from `Csn(1)` on. -/
theorem test_csnDisable :
    next? (exec .csnDisable { fresh [] with csn := false, radio := { radio0 with sent := [0x25#8, 0x4C#8] } })
      (fun t => (t.csn, t.radio.rreg)) = some (true, [(5, [0x4C#8])]) := by decide
/-- V-MIC-10, V-MIC-11. -/
theorem test_ce_stops :
    stop? (exec .ceHigh { fresh [] with ce := true }) = some (.fault .selectNesting) ∧
      stop? (exec .ceLow (fresh [])) = some (.fault .selectNesting) := by decide
/-- R104, R53: the attempt starts. -/
theorem test_ceHigh :
    next? (exec .ceHigh { ready [] with radio := { (ready []).radio with txq := [⟨1#8, 2#8, 3#8, 4#8, 5#8⟩] } })
      (fun t => (t.ce, t.radio.air)) = some (true, .pending) := by decide
/-- R54: the receiver role is all that an arrival needs with `ce = 1`, with or without the power-up bit (0x02). -/
theorem test_listening :
    [0x0C#8, 0x0E#8, 0x0D#8, 0x0F#8].map (fun v => next? (exec (.wait .tRxListen)
        { fresh [] with
          ce := true, radio := { radio0 with rreg := [(0, [v])] }, plan := [[.arrived ⟨1#8, 2#8, 3#8, 4#8, 5#8⟩ true]] })
        (·.radio.rxq.length)) = [some 0, some 0, some 1, some 1] := by decide
/-- R44, R55, R150: without the power-up bit `Ce(1)` leaves RADIO's state a draw, its registers without a value. -/
theorem test_power_up_bit :
    [0x0D#8, 0x0F#8].map (fun v => next? (exec .ceHigh { fresh [] with radio := { radio0 with rreg := [(0, [v])] } })
        (·.radio.rreg)) = [some [], some [(0, [0x0F#8])]] := by decide
/-- R105. -/
theorem test_ceLow : next? (exec .ceLow { fresh [] with ce := true }) (fun t => (t.ce, t.trace)) =
    some (false, [.ce false]) := by decide
/-- V-MIC-8, V-MIC-9. -/
theorem test_attAssert :
    next? (exec .attAssert (fresh [])) (fun t => (t.att, t.trace)) = some (true, [.att true]) ∧
      stop? (exec .attAssert { fresh [] with csn := false }) = some (.fault .busContention) := by decide
/-- V-MIC-9. -/
theorem test_attRelease : next? (exec .attRelease { fresh [] with att := true }) (fun t => (t.att, t.trace)) =
    some (false, [.att false]) := by decide
/-- V-MIC-13. -/
theorem test_fault_signal :
    next? (exec .faultOn { fresh [] with faultSig := true }) (·.faultSig) = some true ∧
      next? (exec .faultOff { fresh [] with faultSig := true }) (·.trace) = some [.faultSig false] := by decide

/-! ## Register transfer (V-REG) -/

/-- V-REG-1. -/
theorem test_regWrite :
    next? (exec (.regWrite 0x05#8 [0x4C#8]) (fresh [1#8, 2#8])) (fun t => (t.trace, t.radio.rreg)) =
      some ([.csn false, .wait .tSettle, .xfer 0x25#8 1#8, .wait .tSettle, .xfer 0x4C#8 2#8, .csn true],
        [(5, [0x4C#8])]) := by decide
/-- V-REG-6, V-REG-7. -/
theorem test_regWrite_refused :
    stop? (exec (.regWrite 0x0A#8 (List.replicate 6 0#8)) (fresh [])) = some (.refuse .lenRange) ∧
      stop? (exec (.regWrite 0x27#8 [0#8]) (fresh [])) = some (.refuse .addrHasOpcodeBit) := by decide
/-- V-REG-4: after P1 the register reads 0x0E. -/
theorem test_regRead :
    next? (exec (.regRead 0x00#8 1) (ready [1#8, 2#8])) (fun t => (t.ret, t.trace)) =
      some ([0x0E#8],
        [.csn false, .wait .tSettle, .xfer 0x00#8 1#8, .wait .tSettle, .xfer 0xFF#8 0x0E#8, .csn true]) := by decide
/-- V-REG-8. -/
theorem test_regRead_refused :
    stop? (exec (.regRead 0x20#8 1) (fresh [])) = some (.refuse .addrHasOpcodeBit) := by decide
/-- V-REG-5. -/
theorem test_radioXact :
    next? (exec (.radioXact 0xE1#8 (.out [])) (fresh [7#8])) (·.trace) =
      some [.csn false, .wait .tSettle, .xfer 0xE1#8 7#8, .csn true] := by decide
/-- V-REG-9, P4: all three flags are cleared. -/
theorem test_statusReset :
    next? (exec .statusReset { fresh [] with radio := { radio0 with maxRt := true, f2 := true, f3 := true } })
      (fun t => (t.radio.maxRt, t.radio.f2, t.radio.f3)) = some (false, false, false) := by decide
/-- V-REG-11. -/
theorem test_statusRead :
    next? (exec .statusRead (fresh [0x1E#8, 0x0E#8])) (fun t => (t.st, t.ret)) = some (some 0x0E#8, []) := by decide

/-! ## Initialization, transmit and receive (V-INIT, V-TX) -/

/-- P1: the bytes on the bus. -/
theorem test_init :
    next? (exec .init (fresh [])) (fun t => (t.initDone, radioBrackets none t.trace)) =
      some (true, [[0x21#8, 0x01#8], [0x24#8, 0x2F#8], [0x22#8, 0x01#8], [0x23#8, 0x03#8], [0x25#8, 0x4C#8],
        [0x26#8, 0x07#8], [0x2A#8, 0xE7#8, 0xE7#8, 0xE7#8, 0xE7#8, 0xE7#8],
        [0x30#8, 0xE7#8, 0xE7#8, 0xE7#8, 0xE7#8, 0xE7#8], [0x31#8, 0x05#8], [0x20#8, 0x0E#8]]) := by decide +kernel
/-- V-INIT-3. -/
theorem test_init_twice : stop? (exec .init (ready [])) = some (.refuse .reinit) := by decide
/-- V-TX-1. -/
theorem test_flushTx :
    next? (exec .flushTx { ready [1#8] with radio := { radio0 with txq := [⟨1#8, 2#8, 3#8, 4#8, 5#8⟩] } })
      (fun t => (t.trace, t.radio.txq)) =
      some ([.csn false, .wait .tSettle, .xfer 0xE1#8 1#8, .csn true], []) := by decide
/-- V-TX-2. -/
theorem test_wTxPayload :
    next? (exec (.wTxPayload [1#8, 2#8, 3#8, 4#8, 5#8]) (ready []))
      (fun t => (radioBrackets none t.trace, t.radio.txq)) =
      some ([[0xA0#8, 1#8, 2#8, 3#8, 4#8, 5#8]], [⟨1#8, 2#8, 3#8, 4#8, 5#8⟩]) := by decide
/-- V-TX-3. -/
theorem test_transmit :
    next? (exec (.transmit [0xFF#8, 0xFF#8, 0x00#8, 0xFF#8, 0x00#8]) (ready []))
      (fun t => (radioBrackets none t.trace, t.trace.drop 18)) =
      some ([[0xE1#8], [0xA0#8, 0xFF#8, 0xFF#8, 0x00#8, 0xFF#8, 0x00#8]],
        [.wait .tTxPre, .ce true, .wait .tCePulse, .ce false, .wait .tTxPost]) := by decide +kernel
/-- V-TX-4, V-INIT-4. -/
theorem test_transmit_refused :
    stop? (exec (.transmit [1#8, 2#8, 3#8, 4#8]) (ready [])) = some (.refuse .lenRange) ∧
      stop? (exec (.transmit [1#8, 2#8, 3#8, 4#8]) (fresh [])) = some (.refuse .notInitialised) := by decide
/-- V-TX-6. -/
theorem test_rRxPayload :
    next? (exec .rRxPayload { readyRx [] with radio := { radio0 with rxq := [⟨9#8, 8#8, 7#8, 6#8, 5#8⟩] } })
      (fun t => (t.rxp, t.radio.rxq)) = some (some ⟨9#8, 8#8, 7#8, 6#8, 5#8⟩, []) := by decide
/-- V-TX-7: a payload arrives while the radio listens. -/
theorem test_receive :
    next? (exec .receive
        { readyRx [] with plan := [] :: [.arrived ⟨0x80#8, 0x01#8, 0x80#8, 0x7F#8, 0x00#8⟩ true] :: List.replicate 30 [] })
      (fun t => (t.rxp, t.trace.length, radioBrackets none t.trace)) =
      some (some ⟨0x80#8, 0x01#8, 0x80#8, 0x7F#8, 0x00#8⟩, 23,
        [[0x61#8, 0xFF#8, 0xFF#8, 0xFF#8, 0xFF#8, 0xFF#8], [0x27#8, 0x70#8]]) := by decide +kernel
/-- V-TX-8. -/
theorem test_receive_refused : stop? (exec .receive (ready [])) = some (.refuse .roleMismatch) := by decide

/-! ## Poll and pack (V-POLL, V-PACK) -/

/-- V-POLL-4. -/
theorem test_poll :
    next? (exec .poll (fresh [0x12#8, 0x34#8, 0x56#8, 0xA5#8, 0x3C#8, 0x01#8, 0xFE#8, 0x55#8, 0xAA#8]))
      (fun t => (t.cf, t.trace.length)) =
      some (⟨some 0x34#8, some 0x5AC3#16, some 0xFE#8, some 0x01#8, some 0xAA#8, some 0x55#8⟩, 20) := by decide
/-- V-POLL-6. -/
theorem test_poll_one_bit :
    next? (exec .poll (fresh [0xFF#8, 0x73#8, 0x5A#8, 0xFF#8, 0xBF#8, 0x80#8, 0x80#8, 0x00#8, 0xFF#8])) (·.cf) =
      some ⟨some 0x73#8, some 0x0040#16, some 0x7F#8, some 0x7F#8, some 0xFF#8, some 0x00#8⟩ := by decide
/-- V-PACK-4. -/
theorem test_pack :
    next? (exec .pack { fresh [] with cf := ⟨none, some 0x1234#16, some 0x11#8, some 0x22#8, some 0xAB#8, some 0xCD#8⟩ })
      (·.tf) = some (some ⟨0x34#8, 0x12#8, 0xAB#8, 0xCD#8, 0x00#8⟩) := by decide
/-- V-PACK-5. -/
theorem test_pack_refused : stop? (exec .pack (fresh [])) = some (.refuse .uninitRead) := by decide

/-! ## Fault check, cycle and run (V-FC, V-CY) -/

/-- V-FC-2: the radio's flag is set and its other bits are drawn as 0x0E. -/
theorem test_faultcheck_recovers :
    next? (exec .faultcheck { ready [0#8, 0x0E#8] with radio := { radio0 with maxRt := true } })
      (fun t => (t.st, t.outcome, t.trace.length, radioBrackets none t.trace)) =
      some (some 0x1E#8, .maxRt, 15, [[0x07#8, 0xFF#8], [0x27#8, 0x70#8]]) := by decide +kernel
/-- V-FC-3: the upper of the other flags is `f3` (log 7). -/
theorem test_faultcheck_other_flag :
    next? (exec .faultcheck { ready [0#8, 0x0E#8] with radio := { radio0 with f2 := true } })
      (fun t => (t.st, t.outcome, t.radio.f2)) = some (some 0x2E#8, .notFailed, true) := by decide
/-- V-CY-1, P2. -/
theorem test_cycle :
    next? (exec .cycle (ready [0xFF#8, 0x73#8, 0x5A#8, 0xFE#8, 0x7F#8, 0x80#8, 0x80#8, 0x7F#8, 0x80#8]))
      (fun t => (t.tf, t.trace.length, radioBrackets none t.trace)) =
      some (some ⟨0x80#8, 0x01#8, 0x80#8, 0x7F#8, 0x00#8⟩, 50,
        [[0xE1#8], [0xA0#8, 0x80#8, 0x01#8, 0x80#8, 0x7F#8, 0x00#8], [0x07#8, 0xFF#8]]) := by decide +kernel
/-- V-CY-2, P3: the attempt fails while the block waits T_TX_POST. -/
theorem test_cycle_recovers :
    next? (exec .cycle
        { ready [0xFF#8, 0x73#8, 0x5A#8, 0xFF#8, 0xBF#8, 0x80#8, 0x80#8, 0x00#8, 0xFF#8] with
          plan := List.replicate 42 [] ++ [.maxRetries] :: List.replicate 30 [] })
      (fun t => (t.outcome, t.trace.length, (radioBrackets none t.trace).drop 1, t.faultSig, t.phase)) =
      some (.maxRt, 59,
        [[0xA0#8, 0x40#8, 0x00#8, 0xFF#8, 0x00#8, 0x00#8], [0x07#8, 0xFF#8], [0x27#8, 0x70#8]], false, .polling) := by
  decide +kernel
/-- R206. -/
theorem test_waitCycle : next? (exec .waitCycle (fresh [])) (·.trace) = some [.wait .tCycle] := by decide
/-- V-CY-5: the first 77 events of RUN. -/
theorem test_run :
    next? (exec .run (fresh [])) (fun t => (t.trace.length, t.phase, t.initDone, t.seq)) =
      some (77, .init, true, .loop) := by decide +kernel
/-- V-CY-7. -/
theorem test_opselReserved : stop? (exec .opselReserved (fresh [])) = some (.refuse .unknownOp) := by decide
/-- V-CY-7 through the step: the request 0b1111. -/
theorem test_step_reserved : stop? (step ((fresh []).withFetchWord 4 15)) = some (.refuse .unknownOp) := by decide

/-! ## Wire rows -/

/-- R72. -/
theorem test_radioWRegister :
    next? (exec (.radioWRegister 0x11#8 [5#8]) (fresh [])) (fun t => (radioBrackets none t.trace, t.radio.rreg)) =
      some ([[0x31#8, 5#8]], [(0x11, [5#8])]) := by decide
/-- R73. -/
theorem test_radioRRegister :
    next? (exec (.radioRRegister 0x00#8 1) (ready [])) (fun t => (radioBrackets none t.trace, t.ret)) =
      some ([[0x00#8, 0xFF#8]], [0x0E#8]) := by decide
/-- R74. -/
theorem test_radio_commands :
    next? (exec .radioFlushTx (fresh [])) (fun t => radioBrackets none t.trace) = some [[0xE1#8]] ∧
      next? (exec (.radioWTxPayload ⟨1#8, 2#8, 3#8, 4#8, 5#8⟩) (fresh [])) (·.radio.txq) =
        some [⟨1#8, 2#8, 3#8, 4#8, 5#8⟩] ∧
      next? (exec .radioRRxPayload { readyRx [] with radio := { radio0 with rxq := [⟨9#8, 8#8, 7#8, 6#8, 5#8⟩] } })
        (·.rxp) = some (some ⟨9#8, 8#8, 7#8, 6#8, 5#8⟩) := by decide
/-- R16: a block in the transmitter role has no `rxp`; the payload read takes its place on the wire all the same (R165). -/
theorem test_payload_read_of_a_transmitter :
    next? (exec .rRxPayload { fresh [] with radio := { radio0 with rxq := [⟨9#8, 8#8, 7#8, 6#8, 5#8⟩] } })
        (fun t => (t.rxp, t.radio.rxq, radioBrackets none t.trace)) =
        some (none, [], [[0x61#8, 0xFF#8, 0xFF#8, 0xFF#8, 0xFF#8, 0xFF#8]]) ∧
      next? (exec .radioRRxPayload { fresh [] with radio := { radio0 with rxq := [⟨9#8, 8#8, 7#8, 6#8, 5#8⟩] } })
        (fun t => (t.rxp, t.radio.rxq)) = some (none, []) := by decide
/-- R80. -/
theorem test_pad_rows :
    next? (exec .padPollCmd { fresh [3#8] with att := true }) (·.trace) = some [.wait .tPadSettle, .xfer 0x01#8 3#8] ∧
      next? (exec .padReadyCmd { fresh [0x73#8] with att := true }) (fun t => (t.ret, t.cf)) =
        some ([0x73#8], State.reset.cf) ∧
      next? (exec .padFill { fresh [0x5A#8] with att := true }) (·.trace) =
        some [.wait .tPadSettle, .xfer 0x00#8 0x5A#8] := by decide
/-- R80, R82: the complement of the byte; `cf` is POLL's. -/
theorem test_padNop :
    next? (exec (.padNop .buttonsLow) { fresh [0x7F#8] with att := true }) (fun t => (t.ret, t.cf)) =
      some ([0x80#8], State.reset.cf) := by decide
/-- R84. -/
theorem test_tframe :
    next? (exec (.tframe 0x80#8 0x01#8 0x80#8 0x7F#8) (fresh [])) (fun t => radioBrackets none t.trace) =
      some [[0xA0#8, 0x80#8, 0x01#8, 0x80#8, 0x7F#8, 0x00#8]] := by decide
/-- R77, V-FC-6: every bit but the tested one, the two other flags being RADIO's (R50); before INIT it is refused. -/
theorem test_statusByte :
    next? (exec (.statusByte 0xEF#8) { ready [7#8] with radio := { radio0 with f2 := true, f3 := true } })
        (fun t => (t.st, t.outcome, t.trace)) =
      some (some 0xEF#8, .notFailed,
        [.csn false, .wait .tSettle, .xfer 0x07#8 7#8, .wait .tSettle, .xfer 0xFF#8 0xEF#8, .csn true]) ∧
      stop? (exec (.statusByte 0x10#8) (fresh [])) = some (.refuse .notInitialised) := by decide

/-! ## Witnesses: for each statement with hypotheses, a state and operands that meet them -/

/-- The outcome is a next state. -/
def runs (o : Host.Outcome State Fault Refusal) : Bool := (next? o fun _ => ()).isSome

/-- The radio selected. -/
def selected : State := { fresh [] with csn := false }

/-- The controller selected. -/
def addressed : State := { fresh [] with att := true }

/-- RADIO in the transmitter role with one payload queued. -/
def queued : State := { ready [] with radio := { (ready []).radio with txq := [⟨1#8, 2#8, 3#8, 4#8, 5#8⟩] } }

/-- A pending transaction with the bytes seen. -/
def pendingXact (sent : List Byte) : State := { selected with radio := { radio0 with sent := sent } }

theorem witness_ResetInputResetsOnlyTheBlock :
    ({ fresh [] with inputs := [.reset] } : State).inputs = .reset :: [] ∧ (fresh []).csn = true := by decide

theorem witness_DecodeInvertsEncode :
    Config.pGK.wf ∧ Instr.wf Config.pGK (.radioWRegister 0x0A#8 [1#8, 2#8, 3#8, 4#8, 5#8]) = true ∧
      encode Config.pGK (.radioWRegister 0x0A#8 [1#8, 2#8, 3#8, 4#8, 5#8]) =
        some ⟨.radioXact, [0x2A#8, 1#8, 2#8, 3#8, 4#8, 5#8]⟩ ∧
      Instr.wf Config.pGK (.radioRRegister 0x1F#8 1) = true ∧ Instr.wf Config.pGK (.regRead 0x07#8 5) = true := by
  decide

theorem witness_RadioDecodingLosesNoByte :
    Config.pGK.wf ∧ decode Config.pGK ⟨.radioXact, [0x30#8, 9#8]⟩ = .ok (.radioWRegister 0x10#8 [9#8]) ∧
      classify Config.pGK 0x30#8 = .regWrite 0x10#8 ∧ classify Config.pGK 0xA0#8 = .payloadWrite ∧
      decode Config.pGK ⟨.radioXact, [0xA0#8, 1#8, 2#8, 3#8, 4#8, 5#8]⟩ =
        .ok (.radioWTxPayload ⟨1#8, 2#8, 3#8, 4#8, 5#8⟩) := by decide

theorem witness_StepRunsTheDecodedRequest :
    ({ fresh [] with inputs := [.request ⟨.opsel, [10#8]⟩] } : State).inputs = .request ⟨.opsel, [10#8]⟩ :: [] ∧
      decode (fresh []).cfg ⟨.opsel, [10#8]⟩ = .ok .poll ∧
      decode (fresh []).cfg ⟨.opsel, [16#8]⟩ = .error .opselHighBits := by decide

theorem witness_StepRunsTheFixedProgram :
    (fresh []).inputs = [] ∧ (fresh []).seq = .start ∧ ({ ready [] with seq := .loop } : State).seq = .loop := by
  decide

theorem witness_StepKeepsTheInvariant :
    Inv (fresh []) ∧ runs (step (fresh [])) = true ∧ Inv selected ∧ runs (exec .csnDisable selected) = true := by
  decide +kernel

theorem witness_StepKeepsTheLinesIdle :
    idleLines (fresh []) ∧ runs (step (fresh [])) = true ∧ (ready []).cfg.wf ∧ readyTx { ready [] with seq := .loop } ∧
      (ready []).inputs.head? ≠ some .reset ∧ runs (step { ready [] with seq := .loop }) = true := by decide +kernel

theorem witness_OperationsKeepTheBusDiscipline :
    isMicro .poll = false ∧ idleLines (fresh []) ∧ runs (exec .poll (fresh [])) = true := by decide +kernel

theorem witness_InitDoneIsNeverCleared :
    runs (step { ready [] with seq := .loop }) = true ∧ (ready []).inputs.head? ≠ some .reset ∧
      (ready []).initDone = true := by decide +kernel

theorem witness_TraceOnlyGrows : runs (exec .statusReset (fresh [])) = true := by decide +kernel

theorem witness_OnlyTheOwnerWrites :
    next? (exec .poll (fresh [])) (fun t => decide (t.cf ≠ (fresh []).cf)) = some true ∧
      next? (exec .cycle (ready []))
        (fun t => (decide (t.tf ≠ (ready []).tf), decide (t.st ≠ (ready []).st), decide (t.outcome ≠ (ready []).outcome),
          decide (t.phase ≠ (ready []).phase))) = some (true, true, true, true) ∧
      next? (exec .rRxPayload (readyRx [])) (fun t => decide (t.rxp ≠ (readyRx []).rxp)) = some true ∧
      next? (exec .init (fresh [])) (fun t => decide (t.initDone ≠ (fresh []).initDone)) = some true ∧
      next? (exec .csnEnable (fresh [])) (fun t => decide (t.csn ≠ (fresh []).csn)) = some true ∧
      next? (exec .ceHigh (fresh [])) (fun t => decide (t.ce ≠ (fresh []).ce)) = some true ∧
      next? (exec .attAssert (fresh [])) (fun t => decide (t.att ≠ (fresh []).att)) = some true ∧
      next? (exec .faultOn (fresh [])) (fun t => decide (t.faultSig ≠ (fresh []).faultSig)) = some true := by
  decide +kernel

theorem witness_XferWithRadioCompletes : selected.csn = false ∧ selected.att = false := by decide

theorem witness_XferWithPadCompletes :
    addressed.csn = true ∧ addressed.att = true ∧ ({ addressed with padK := 8 } : State).padK < 9 := by decide

theorem witness_XferFaultsWithoutOneTarget :
    ({ selected with att := true } : State).csn = false ∧ ({ selected with att := true } : State).att = true ∧
      (fresh []).csn = true ∧ (fresh []).att = false := by decide

theorem witness_CsnEnableSelects : (fresh []).csn = true ∧ (fresh []).att = false := by decide

theorem witness_CsnDisableDeselects : selected.csn = false := by decide

theorem witness_RegisterWriteLandsAtDeselect :
    Config.pGK.wf ∧ (pendingXact [0x30#8, 1#8, 2#8, 3#8, 4#8, 5#8]).csn = false ∧
      (pendingXact [0x30#8, 1#8, 2#8, 3#8, 4#8, 5#8]).radio.startedBusy = false ∧ 0x10#8 ∈ Config.pGK.mapRegisters ∧
      regWidth Config.pGK 0x10#8 = some 5 ∧ 0x10#8 ≠ Config.pGK.regStatus ∧
      (pendingXact [0x30#8, 1#8, 2#8, 3#8, 4#8, 5#8]).radio.sent =
        writeFirst Config.pGK 0x10#8 :: [1#8, 2#8, 3#8, 4#8, 5#8] ∧
      regWidth Config.pGK 0x07#8 = some 1 ∧ 0x07#8 ∈ Config.pGK.mapRegisters ∧ 0x07#8 = Config.pGK.regStatus ∧
      (pendingXact [0x27#8, 0x70#8]).radio.sent = writeFirst Config.pGK 0x07#8 :: [0x70#8] ∧
      (pendingXact [0x07#8, 0xFF#8]).radio.sent = readFirst 0x07#8 :: [0xFF#8] := by decide

theorem witness_CeHighAsserts :
    queued.ce = false ∧ queued.csn = true ∧ chipStarted queued.cfg queued.radio = true ∧
      selectsTx queued.cfg queued.radio = true ∧ queued.radio.txq ≠ [] ∧
      chipStarted (readyRx []).cfg (readyRx []).radio = true ∧ selectsRx (readyRx []).cfg (readyRx []).radio = true := by
  decide

theorem witness_CeHighStartsAnAttempt :
    queued.ce = false ∧ queued.csn = true ∧ chipStarted queued.cfg queued.radio = true ∧
      selectsTx queued.cfg queued.radio = true ∧ queued.radio.txq ≠ [] ∧
      queued.radio.maxRt = false ∧ queued.radio.air = .idle ∧ queued.plan.head? = some [] := by decide

/-- An attempt in flight, the failure flag's two neighbours set, and what RADIO does next given. -/
def inFlight (act : EnvAction) : State :=
  { queued with radio := { queued.radio with air := .pending, f2 := true, f3 := true }, plan := [[act]] }

/-- The receiver with the enable line high, and what RADIO does next given. -/
def listening (act : EnvAction) : State := { readyRx [] with ce := true, plan := [[act]] }

theorem witness_RadioResolvesAttemptsAndKeepsItsFlags :
    (inFlight (.acknowledged true)).plan.head? = some [.acknowledged true] ∧
      (inFlight .maxRetries).radio.air = .pending ∧ (inFlight .maxRetries).plan.head? = some [.maxRetries] ∧
      (listening .maxRetries).radio.air = .idle ∧ (listening .maxRetries).plan.head? = some [.maxRetries] ∧
      (listening (.arrived ⟨1#8, 2#8, 3#8, 4#8, 5#8⟩ true)).plan.head? =
        some [.arrived ⟨1#8, 2#8, 3#8, 4#8, 5#8⟩ true] ∧
      (listening .maxRetries).ce = true ∧ chipStarted (listening .maxRetries).cfg (listening .maxRetries).radio = true ∧
      selectsRx (listening .maxRetries).cfg (listening .maxRetries).radio = true ∧ queued.ce = false ∧
      chipStarted queued.cfg queued.radio = true ∧ selectsTx queued.cfg queued.radio = true ∧
      isMicro (.wait .tCePulse) = true ∧ runs (exec (.wait .tCePulse) (inFlight .maxRetries)) = true ∧
      (inFlight .maxRetries).radio.f2 = true ∧ queued.radio.maxRt = false ∧ queued.radio.air = .idle ∧
      queued.radio.txq ≠ [] ∧ runs (exec .ceHigh queued) = true := by decide

theorem witness_CeLowDeasserts : ({ fresh [] with ce := true } : State).ce = true := by decide

theorem witness_HandshakeLineBracketsTheExchange :
    (fresh []).csn = true ∧ (fresh []).att = false ∧ addressed.att = true := by decide

theorem witness_LineOperationsFaultOutsideTheirBracket :
    addressed.att = true ∧ addressed.csn = true ∧ selected.att = false ∧ selected.csn = false ∧
      (fresh []).csn = true ∧ (fresh []).ce = false ∧ (fresh []).att = false ∧
      ({ fresh [] with ce := true } : State).ce = true := by decide

theorem witness_RadioXactIsOneBracket :
    (fresh []).csn = true ∧ (fresh []).att = false ∧ (XactArg.out []).len ≤ (fresh []).cfg.nMax ∧
      (XactArg.inp 5).len ≤ (fresh []).cfg.nMax := by decide

theorem witness_TransfersRefuseBadOperands :
    (fresh []).cfg.nMax < (XactArg.inp 6).len ∧ 0x27#8 &&& (fresh []).cfg.wOpcode ≠ 0#8 ∧
      0x27#8 ≠ (fresh []).cfg.regTxPayload ∧ 0x20#8 &&& (fresh []).cfg.wOpcode ≠ 0#8 ∧
      0x20#8 ≠ (fresh []).cfg.regRxPayload ∧ 0x0A#8 &&& (fresh []).cfg.wOpcode = 0#8 ∧
      (fresh []).cfg.nMax < (List.replicate 6 0#8).length ∧ (fresh []).cfg.nMax < 6 := by decide

theorem witness_RegWriteSendsItsData :
    (fresh []).csn = true ∧ (fresh []).att = false ∧ 0x1F#8 &&& (fresh []).cfg.wOpcode = 0#8 ∧
      0xA0#8 = (fresh []).cfg.regTxPayload ∧ ([] : List Byte).length ≤ (fresh []).cfg.nMax ∧
      [1#8, 2#8, 3#8, 4#8, 5#8].length ≤ (fresh []).cfg.nMax := by decide

theorem witness_RegWriteIsHeldByTheRadio :
    (fresh []).cfg.wf ∧ (fresh []).csn = true ∧ (fresh []).att = false ∧ quiet (fresh []) ∧
      0x0A#8 ∈ (fresh []).cfg.mapRegisters ∧ 0x0A#8 ≠ (fresh []).cfg.regStatus ∧
      regWidth (fresh []).cfg 0x0A#8 = some [1#8, 2#8, 3#8, 4#8, 5#8].length := by decide

theorem witness_RegReadReturnsItsBytes :
    (fresh []).csn = true ∧ (fresh []).att = false ∧ 0x00#8 &&& (fresh []).cfg.wOpcode = 0#8 ∧
      0x61#8 = (fresh []).cfg.regRxPayload ∧ 0 ≤ (fresh []).cfg.nMax ∧ 5 ≤ (fresh []).cfg.nMax := by decide

theorem witness_RegReadReturnsTheHeldValue :
    (ready []).cfg.wf ∧ (ready []).csn = true ∧ (ready []).att = false ∧ quiet (ready []) ∧
      0x00#8 ∈ (ready []).cfg.mapRegisters ∧ 0x00#8 ≠ (ready []).cfg.regStatus ∧
      regWidth (ready []).cfg 0x00#8 = some [0x0E#8].length ∧
      Memory.read (ready []).radio.rreg (0x00#8 : Byte).toNat = some [0x0E#8] := by decide

/-- For StatusResetIsOneWrite, StatusResetClearsTheFlags, StatusReadTakesTheDataByte, StatusReadSeesMaxRetries. -/
theorem witness_status_operations :
    (fresh []).cfg.wf ∧ (fresh []).csn = true ∧ (fresh []).att = false ∧ quiet (fresh []) ∧
      (fresh []).radio.sent = [] ∧ (fresh []).radio.startedBusy = false := by decide

/-- For InitWritesInOrder, InitConfiguresTheRadio. -/
theorem witness_init_statements :
    (fresh []).cfg.wf ∧ idleLines (fresh []) ∧ (fresh []).initDone = false ∧ (fresh []).radio.air = .idle ∧
      (fresh []).cfg.role = .tx := by
  decide

/-- For InitConfiguresTheRadio, the receiver's clause. -/
theorem witness_init_receiver :
    ({ readyRx [] with initDone := false } : State).cfg.wf ∧ idleLines { readyRx [] with initDone := false } ∧
      ({ readyRx [] with initDone := false } : State).radio.air = .idle ∧
      ({ readyRx [] with initDone := false } : State).cfg.role = .rx := by decide

/-- For RRxPayloadTakesTheHead and CommandRowsAreOneTransaction, the receiver's clause; `queued` is a transmitter. -/
theorem witness_payload_read_of_a_receiver :
    (readyRx []).cfg.wf ∧ (readyRx []).csn = true ∧ (readyRx []).att = false ∧ (readyRx []).cfg.role = .rx ∧
      quiet (readyRx []) ∧ queued.cfg.role = .tx := by decide

/-- For FlushTxEmptiesTheQueue, WTxPayloadQueuesThePayload, RRxPayloadTakesTheHead, CommandRowsAreOneTransaction. -/
theorem witness_queue_operations :
    queued.cfg.wf ∧ queued.csn = true ∧ queued.att = false ∧ quiet queued ∧
      ({ queued with radio := { radio0 with rxq := [⟨9#8, 8#8, 7#8, 6#8, 5#8⟩] } } : State).radio.rxq =
        ⟨9#8, 8#8, 7#8, 6#8, 5#8⟩ :: [] := by decide

/-- For TransmitFlushesLoadsAndPulses, CycleForwardsThePolledFrame, CycleLeastTime. -/
theorem witness_transmitter_ready :
    (ready []).cfg.wf ∧ readyTx (ready []) ∧ quiet (ready []) ∧ chipStarted (ready []).cfg (ready []).radio = true ∧
      selectsTx (ready []).cfg (ready []).radio = true := by
  decide

theorem witness_ReceiveListensReadsAndResets :
    (readyRx []).cfg.wf ∧ idleLines (readyRx []) ∧ (readyRx []).initDone = true ∧ (readyRx []).cfg.role = .rx ∧
      chipStarted (readyRx []).cfg (readyRx []).radio = true ∧
      selectsRx (readyRx []).cfg (readyRx []).radio = true ∧ (readyRx []).radio.maxRt = false ∧
      (readyRx []).radio.air = .idle := by decide

theorem witness_PollDecodesTheNineBytes : (fresh []).csn = true ∧ (fresh []).att = false := by decide

/-- For PackBuildsTheTelemetryFrame and PackBoundaryFrame. -/
theorem witness_pack_statements :
    ({ fresh [] with cf := ⟨none, some 0xFFFF#16, none, none, some 0x00#8, some 0xFF#8⟩ } : State).cf.buttons =
        some 0xFFFF#16 ∧
      ({ fresh [] with cf := ⟨none, some 0xFFFF#16, none, none, some 0x00#8, some 0xFF#8⟩ } : State).cf.lx =
        some 0x00#8 ∧
      ({ fresh [] with cf := ⟨none, some 0xFFFF#16, none, none, some 0x00#8, some 0xFF#8⟩ } : State).cf.ly =
        some 0xFF#8 ∧
      (fresh []).cf.buttons = none ∧ (fresh []).cf.lx = none ∧ (fresh []).cf.ly = none := by decide

theorem witness_FaultcheckSamplesAndRecovers :
    (ready []).cfg.wf ∧ idleLines (ready []) ∧ (ready []).initDone = true ∧
      next? (exec .faultcheck { ready [0#8, 0x0E#8] with radio := { radio0 with maxRt := true } })
        (fun t => (t.st.map (· &&& t.cfg.statusMaxRtMask))) = some (some 0x10#8) ∧
      next? (exec .faultcheck (ready [0#8, 0x0E#8])) (fun t => (t.st.map (· &&& t.cfg.statusMaxRtMask))) =
        some (some 0#8) := by decide +kernel

theorem witness_TwoCyclesSendTwoFramesInOrder :
    (ready []).cfg.wf ∧ readyTx { ready [] with seq := .loop } ∧ ({ ready [] with seq := .loop } : State).seq = .loop ∧
      ({ ready [] with seq := .loop } : State).inputs = [] := by decide

theorem witness_RunInitialisesAndEntersTheLoop :
    (fresh []).cfg.wf ∧ readyTx { fresh [] with initDone := true } ∧ (fresh []).initDone = false ∧
      (fresh []).radio.air = .idle := by decide

theorem witness_OperationsRefuseByRule :
    (ready []).initDone = true ∧ [1#8, 2#8, 3#8, 4#8].length ≠ 5 ∧ (fresh []).initDone = false ∧
      (readyRx []).initDone = true ∧ (readyRx []).cfg.role = .rx ∧ (ready []).cfg.role = .tx := by decide

theorem witness_ReservedCodeIsRefused :
    ({ fresh [] with inputs := [.request ⟨.opsel, [0b1111#8, 1#8]⟩] } : State).inputs =
      .request ⟨.opsel, 0b1111#8 :: [1#8]⟩ :: [] := by decide

theorem witness_RegisterRowsAreOneTransaction :
    (fresh []).csn = true ∧ (fresh []).att = false ∧ 0x10#8 &&& (fresh []).cfg.wOpcode = 0#8 ∧
      [1#8, 2#8, 3#8, 4#8, 5#8].length ≤ (fresh []).cfg.nMax ∧ 0xA0#8 = (fresh []).cfg.regTxPayload ∧
      0x61#8 = (fresh []).cfg.regRxPayload ∧ (fresh []).cfg.wf ∧ quiet (fresh []) ∧
      0x10#8 ∈ (fresh []).cfg.mapRegisters ∧ 0x10#8 ≠ (fresh []).cfg.regStatus ∧
      regWidth (fresh []).cfg 0x10#8 = some [1#8, 2#8, 3#8, 4#8, 5#8].length := by decide

theorem witness_ControllerRowsAreOneExchange :
    addressed.csn = true ∧ addressed.att = true ∧ ({ addressed with padK := 8 } : State).padK < 9 := by decide

theorem witness_StatusByteRowIsClassified :
    (fresh []).initDone = false ∧ (ready []).cfg.wf ∧ idleLines (ready []) ∧ (ready []).initDone = true ∧
      next? (exec (.statusByte 0x0E#8) { ready [] with radio := { radio0 with maxRt := true } })
        (fun t => (t.st.map (· &&& t.cfg.statusMaxRtMask))) = some (some 0x10#8) ∧
      next? (exec (.statusByte 0x0E#8) (ready [])) (fun t => (t.st.map (· &&& t.cfg.statusMaxRtMask))) =
        some (some 0#8) := by
  decide

end Sys2Proof.Tests
end

section
/-! SUPPORT. What each operation may change of the block (R245), in the order of the model's files, and the statements
about owners that follow from it. -/

namespace Sys2Proof.Scope

open Sys2Proof.Machine Sys2Proof.Safety

/-! ## Parts of the block and their owners -/

/-- The parts of the block that R9 and R245 give an owner. -/
inductive Part where
  | cf
  | tf
  | st
  | rxp
  | outcome
  | initDone
  | phase
  | csn
  | ce
  | att
  | faultSig
deriving DecidableEq

/-- The part is the same in both states. -/
def Part.same : Part → State → State → Prop
  | .cf, s, t => t.cf = s.cf
  | .tf, s, t => t.tf = s.tf
  | .st, s, t => t.st = s.st
  | .rxp, s, t => t.rxp = s.rxp
  | .outcome, s, t => t.outcome = s.outcome
  | .initDone, s, t => t.initDone = s.initDone
  | .phase, s, t => t.phase = s.phase
  | .csn, s, t => t.csn = s.csn
  | .ce, s, t => t.ce = s.ce
  | .att, s, t => t.att = s.att
  | .faultSig, s, t => t.faultSig = s.faultSig

/-- R245: the instructions that may change a part. -/
def Owner (i : Instr) : Part → Prop
  | .cf => i = .poll ∨ i = .cycle
  | .tf => i = .pack ∨ i = .cycle
  | .st => i = .statusRead ∨ i = .faultcheck ∨ i = .cycle ∨ ∃ b, i = .statusByte b
  | .rxp => i = .rRxPayload ∨ i = .receive ∨ i = .radioRRxPayload
  | .outcome => i = .faultcheck ∨ i = .cycle ∨ ∃ b, i = .statusByte b
  | .initDone => i = .init ∨ i = .run
  | .phase => i = .cycle ∨ i = .run
  | .csn => i = .csnEnable ∨ i = .csnDisable
  | .ce => i = .ceHigh ∨ i = .ceLow
  | .att => i = .attAssert ∨ i = .attRelease
  | .faultSig => i = .faultOn ∨ i = .faultOff ∨ i = .faultcheck ∨ i = .cycle ∨ ∃ b, i = .statusByte b

/-- From `s` to `t` only the listed parts may change, `rxp` in the receiver role only (R16), and nothing that is fixed
changes. -/
structure ChangesOnly (ps : List Part) (s t : State) : Prop where
  parts : ∀ p ∉ ps, p.same s t
  role : t.rxp ≠ s.rxp → s.cfg.role = .rx
  fixed : sameFixed s t

variable {s t u : State} {ps qs : List Part}

theorem Part.same.trans {p : Part} (h : p.same s t) (h' : p.same t u) : p.same s u := by
  cases p <;> exact Eq.trans h' h

theorem ChangesOnly.refl (s : State) : ChangesOnly [] s s where
  parts p _ := by cases p <;> rfl
  role h := absurd rfl h
  fixed := ⟨rfl, rfl, rfl⟩

/-- An operation that leaves `rxp` alone meets the role clause. What it leaves alone is read off its next state, part
by part, with the lemmas about the model's updates. -/
theorem ChangesOnly.of_parts (hp : ∀ p ∉ ps, p.same s t := by intro p hp; cases p <;> simp_all [Part.same])
    (hr : .rxp ∉ ps := by decide) (hf : sameFixed s t := by refine ⟨?_, ?_, ?_⟩ <;> simp) : ChangesOnly ps s t :=
  ⟨hp, fun h => absurd (hp .rxp hr) h, hf⟩

theorem ChangesOnly.mono (h : ChangesOnly ps s t) (hs : ps ⊆ qs) : ChangesOnly qs s t :=
  ⟨fun p hp => h.parts p fun hm => hp (hs hm), h.role, h.fixed⟩

theorem ChangesOnly.trans (h : ChangesOnly ps s t) (h' : ChangesOnly qs t u) : ChangesOnly (ps ++ qs) s u := by
  obtain ⟨hcfg, hirq, hin⟩ := h.fixed
  obtain ⟨hcfg', hirq', hin'⟩ := h'.fixed
  refine ⟨fun p hp => ?_, fun hne => ?_, hcfg'.trans hcfg, hirq'.trans hirq, hin'.trans hin⟩
  · rw [List.mem_append, not_or] at hp
    exact (h.parts p hp.1).trans (h'.parts p hp.2)
  · by_cases hst : t.rxp = s.rxp
    · rw [← hcfg]
      exact h'.role (hst ▸ hne)
    · exact h.role hst

/-! ## One register written -/

theorem withTf_changesOnly (x : Option Bytes5) (s : State) : ChangesOnly [.tf] s { s with tf := x } :=
  .of_parts

theorem withSt_changesOnly (x : Option Byte) (s : State) : ChangesOnly [.st] s { s with st := x } :=
  .of_parts

theorem withOutcome_changesOnly (x : TxOutcome) (s : State) : ChangesOnly [.outcome] s { s with outcome := x } :=
  .of_parts

theorem withInitDone_changesOnly (x : Bool) (s : State) : ChangesOnly [.initDone] s { s with initDone := x } :=
  .of_parts

theorem withPhase_changesOnly (x : Phase) (s : State) : ChangesOnly [.phase] s { s with phase := x } :=
  .of_parts

theorem withSeq_changesOnly (x : SeqPos) (s : State) : ChangesOnly [] s { s with seq := x } :=
  .of_parts

theorem withRet_changesOnly (x : List Byte) (s : State) : ChangesOnly [] s { s with ret := x } :=
  .of_parts

theorem giveDataByte_changesOnly (b : Byte) (s : State) : ChangesOnly [] s (giveDataByte b s) :=
  .of_parts

/-- R16: the one writer of `rxp` writes it in the receiver role only. -/
theorem storeRxp_changesOnly (bytes : List Byte) (s : State) : ChangesOnly [.rxp] s (storeRxp bytes s) where
  parts p hp := by cases p <;> simp_all [Part.same]
  role h := by
    by_contra hr
    simp [hr] at h
  fixed := ⟨rfl, rfl, rfl⟩

/-! ## Micro-operations -/

theorem waitFor_changesOnly (T : TimeParam) (s : State) : ChangesOnly [] s (waitFor T s) :=
  .of_parts

theorem exchange_changesOnly (tx : Byte) (s : State) : ChangesOnly [] s (exchange tx s) :=
  .of_parts

theorem faultOn_changesOnly (s : State) : ChangesOnly [.faultSig] s (faultOn s) :=
  .of_parts

theorem faultOff_changesOnly (s : State) : ChangesOnly [.faultSig] s (faultOff s) :=
  .of_parts

theorem csnEnable_changesOnly (h : csnEnable s = .ok t) : ChangesOnly [.csn] s t := by
  obtain ⟨-, -, rfl⟩ := csnEnable_eq_ok.1 h
  exact .of_parts

theorem csnDisable_changesOnly (h : csnDisable s = .ok t) : ChangesOnly [.csn] s t := by
  obtain ⟨-, rfl⟩ := csnDisable_eq_ok.1 h
  exact .of_parts

theorem ceHigh_changesOnly (h : ceHigh s = .ok t) : ChangesOnly [.ce] s t := by
  obtain ⟨-, -, rfl⟩ := ceHigh_eq_ok.1 h
  exact .of_parts

theorem ceLow_changesOnly (h : ceLow s = .ok t) : ChangesOnly [.ce] s t := by
  obtain ⟨-, rfl⟩ := ceLow_eq_ok.1 h
  exact .of_parts

theorem attAssert_changesOnly (h : attAssert s = .ok t) : ChangesOnly [.att] s t := by
  obtain ⟨-, -, rfl⟩ := attAssert_eq_ok.1 h
  exact .of_parts

theorem attRelease_changesOnly (h : attRelease s = .ok t) : ChangesOnly [.att] s t := by
  obtain ⟨-, rfl⟩ := attRelease_eq_ok.1 h
  exact .of_parts

theorem xfer_changesOnly {tx rx : Byte} (h : xfer tx s = .ok (rx, t)) : ChangesOnly [] s t := by
  obtain ⟨-, -, rfl⟩ := xfer_eq_ok.1 h
  exact exchange_changesOnly tx s

theorem padExchange_changesOnly {k : Nat} {rx : Byte} (h : padExchange k s = .ok (rx, t)) : ChangesOnly [] s t :=
  (waitFor_changesOnly _ s).trans (xfer_changesOnly h)

theorem padCapture_changesOnly {k : Nat} {bytes : List Byte} (h : padCapture k s = .ok (bytes, t)) :
    ChangesOnly [] s t := by
  obtain ⟨-, -, rfl⟩ := padCapture_eq_ok.1 h
  exact (waitFor_changesOnly _ s).trans (exchange_changesOnly _ _)

/-! ## Brackets: a line that is driven is back at its level at the end -/

theorem radioXact_changesOnly {first : Byte} {arg : XactArg} {res : List Byte}
    (h : radioXact first arg s = .ok (res, t)) : ChangesOnly [] s t := by
  obtain ⟨-, hcsn, -, -, rfl⟩ := radioXact_eq_ok.1 h
  exact .of_parts

theorem enablePulse_changesOnly (h : enablePulse s = .ok t) : ChangesOnly [] s t := by
  obtain ⟨hce, -, rfl⟩ := enablePulse_eq_ok.1 h
  exact .of_parts

/-- RECEIVE's listening window (R166): CE_HIGH, a wait, CE_LOW. -/
theorem listening_changesOnly (h : ceHigh s = .ok t) (h' : ceLow (waitFor .tRxListen t) = .ok u) :
    ChangesOnly [] s u := by
  obtain ⟨hce, -, rfl⟩ := ceHigh_eq_ok.1 h
  obtain ⟨-, rfl⟩ := ceLow_eq_ok.1 h'
  exact .of_parts

theorem poll_changesOnly (h : poll s = .ok t) : ChangesOnly [.cf] s t := by
  obtain ⟨-, hatt, rfl⟩ := poll_eq_ok.1 h
  exact .of_parts

/-! ## Register transfers and recovery -/

theorem regWrite_changesOnly {a : Byte} {data : List Byte} (h : regWrite a data s = .ok t) : ChangesOnly [] s t := by
  obtain ⟨-, hlen, hcsn, hatt, rfl⟩ := regWrite_eq_ok.1 h
  exact radioXact_changesOnly (radioXact_idle _ (.out data) hcsn hatt hlen)

theorem regRead_changesOnly {a : Byte} {n : Nat} {res : List Byte} (h : regRead a n s = .ok (res, t)) :
    ChangesOnly [] s t := by
  obtain ⟨-, hlen, hcsn, hatt, -, rfl⟩ := regRead_eq_ok.1 h
  exact radioXact_changesOnly (radioXact_idle _ (.inp n) hcsn hatt hlen)

theorem statusReset_changesOnly (h : statusReset s = .ok t) : ChangesOnly [] s t := regWrite_changesOnly h

theorem statusRead_changesOnly (h : statusRead s = .ok t) : ChangesOnly [.st] s t := by
  obtain ⟨⟨res, s1⟩, hread, h⟩ := bind_eq_ok.1 h
  cases h
  exact (regRead_changesOnly hread).trans (withSt_changesOnly _ s1)

theorem recovery_changesOnly (h : recovery s = .ok t) : ChangesOnly [.faultSig] s t := by
  obtain ⟨s1, hreset, h⟩ := bind_eq_ok.1 h
  cases h
  exact ((faultOn_changesOnly s).trans (statusReset_changesOnly hreset)).trans
    ((waitFor_changesOnly _ s1).trans (faultOff_changesOnly _)) |>.mono (by simp)

theorem handleStatus_changesOnly {b : Byte} (h : handleStatus b s = .ok t) :
    ChangesOnly [.outcome, .faultSig] s t := by
  have hout := withOutcome_changesOnly (outcomeOf s.cfg b) s
  unfold handleStatus at h
  split at h
  · exact hout.trans (recovery_changesOnly h)
  · cases h
    exact hout.mono (by simp)

/-! ## Guards -/

theorem guard_eq_ok {α : Type} {c : Prop} [Decidable c] {e : Stop} {x : Result α} {a : α} :
    (if c then .error e else x) = .ok a ↔ ¬c ∧ x = .ok a := by
  split <;> simp [*]

/-! ## Initialization, transmit and receive -/

theorem regWriteAll_changesOnly (ws : List (Byte × List Byte)) :
    ∀ {s t : State}, regWriteAll ws s = .ok t → ChangesOnly [] s t := by
  induction ws with
  | nil =>
    intro s t h
    cases h
    exact .refl s
  | cons w ws ih =>
    intro s t h
    obtain ⟨s1, hwrite, h⟩ := bind_eq_ok.1 h
    exact (regWrite_changesOnly hwrite).trans (ih h)

theorem initRadio_changesOnly (h : initRadio s = .ok t) : ChangesOnly [.initDone] s t := by
  obtain ⟨-, h⟩ := guard_eq_ok.1 h
  obtain ⟨s1, hwrites, h⟩ := bind_eq_ok.1 h
  cases h
  exact (regWriteAll_changesOnly _ hwrites).trans
    ((waitFor_changesOnly _ s1).trans (withInitDone_changesOnly true _))

/-- R152: INIT ends with `init_done = 1`. -/
theorem initRadio_initDone (h : initRadio s = .ok t) : t.initDone = true := by
  obtain ⟨-, h⟩ := guard_eq_ok.1 h
  obtain ⟨s1, -, h⟩ := bind_eq_ok.1 h
  cases h
  rfl

theorem flushTx_changesOnly (h : flushTx s = .ok t) : ChangesOnly [] s t := by
  obtain ⟨⟨res, s1⟩, hx, h⟩ := bind_eq_ok.1 h
  cases h
  exact radioXact_changesOnly hx

theorem wTxPayload_changesOnly {p : List Byte} (h : wTxPayload p s = .ok t) : ChangesOnly [] s t := by
  unfold wTxPayload at h
  split at h
  · exact regWrite_changesOnly h
  · cases h

theorem transmit_changesOnly {p : List Byte} (h : transmit p s = .ok t) : ChangesOnly [] s t := by
  obtain ⟨-, h⟩ := guard_eq_ok.1 h
  obtain ⟨-, h⟩ := guard_eq_ok.1 h
  obtain ⟨-, h⟩ := guard_eq_ok.1 h
  obtain ⟨s1, hflush, h⟩ := bind_eq_ok.1 h
  obtain ⟨s2, hload, h⟩ := bind_eq_ok.1 h
  exact (flushTx_changesOnly hflush).trans ((wTxPayload_changesOnly hload).trans (enablePulse_changesOnly h))

theorem rRxPayload_changesOnly (h : rRxPayload s = .ok t) : ChangesOnly [.rxp] s t := by
  obtain ⟨⟨res, s1⟩, hread, h⟩ := bind_eq_ok.1 h
  cases h
  exact (regRead_changesOnly hread).trans (storeRxp_changesOnly res s1)

theorem receive_changesOnly (h : receive s = .ok t) : ChangesOnly [.rxp] s t := by
  obtain ⟨-, h⟩ := guard_eq_ok.1 h
  obtain ⟨-, h⟩ := guard_eq_ok.1 h
  obtain ⟨s1, hhigh, h⟩ := bind_eq_ok.1 h
  obtain ⟨s2, hlow, h⟩ := bind_eq_ok.1 h
  obtain ⟨s3, hread, h⟩ := bind_eq_ok.1 h
  exact (listening_changesOnly hhigh hlow).trans ((rRxPayload_changesOnly hread).trans (statusReset_changesOnly h))

/-! ## The bridge loop -/

theorem packFrame_changesOnly (h : packFrame s = .ok t) : ChangesOnly [.tf] s t := by
  obtain ⟨b, lx, ly, -, -, -, rfl⟩ := packFrame_eq_ok.1 h
  exact withTf_changesOnly _ s

theorem faultcheck_changesOnly (h : faultcheck s = .ok t) : ChangesOnly [.st, .outcome, .faultSig] s t := by
  obtain ⟨-, h⟩ := guard_eq_ok.1 h
  obtain ⟨s1, hread, h⟩ := bind_eq_ok.1 h
  split at h
  · exact (statusRead_changesOnly hread).trans (handleStatus_changesOnly h)
  · cases h

theorem transmitFrame_changesOnly (h : transmitFrame s = .ok t) : ChangesOnly [] s t := by
  unfold transmitFrame at h
  split at h
  · exact transmit_changesOnly h
  · cases h

theorem cycle_changesOnly (h : cycle s = .ok t) : ChangesOnly [.cf, .tf, .st, .outcome, .phase, .faultSig] s t := by
  obtain ⟨-, h⟩ := guard_eq_ok.1 h
  obtain ⟨-, h⟩ := guard_eq_ok.1 h
  obtain ⟨s1, hpoll, h⟩ := bind_eq_ok.1 h
  obtain ⟨s2, hpack, h⟩ := bind_eq_ok.1 h
  obtain ⟨s3, hsend, h⟩ := bind_eq_ok.1 h
  obtain ⟨s4, hcheck, h⟩ := bind_eq_ok.1 h
  cases h
  have hpolling := (withPhase_changesOnly .polling s).trans (poll_changesOnly hpoll)
  have hpacked := hpolling.trans (packFrame_changesOnly hpack)
  have hsent := hpacked.trans ((withPhase_changesOnly .transmitting s2).trans (transmitFrame_changesOnly hsend))
  have hchecked := hsent.trans ((withPhase_changesOnly .faultcheck s3).trans (faultcheck_changesOnly hcheck))
  exact (hchecked.trans ((waitFor_changesOnly .tCycle s4).trans (withPhase_changesOnly .polling _))).mono (by simp)

theorem runProgram_changesOnly (h : runProgram s = .ok t) : ChangesOnly [.phase, .initDone] s t := by
  obtain ⟨-, h⟩ := guard_eq_ok.1 h
  obtain ⟨s1, hinit, h⟩ := bind_eq_ok.1 h
  cases h
  exact (withPhase_changesOnly .init s).trans
    ((initRadio_changesOnly hinit).trans (withSeq_changesOnly .loop s1))

theorem runProgram_initDone (h : runProgram s = .ok t) : t.initDone = true := by
  obtain ⟨-, h⟩ := guard_eq_ok.1 h
  obtain ⟨s1, hinit, h⟩ := bind_eq_ok.1 h
  cases h
  have hdone : s1.initDone = true := initRadio_initDone hinit
  exact hdone

/-! ## Instructions -/

/-- The instruction's change from `s` to `t` touches only parts it owns. -/
def ChangesOwned (i : Instr) (s t : State) : Prop := ∃ ps, ChangesOnly ps s t ∧ ∀ p ∈ ps, Owner i p

theorem changesOwned_of_result {i : Instr} {x : Result State} (h : outcomeOfResult x = .next t)
    (hx : x = .ok t → ChangesOnly ps s t) (ho : ∀ p ∈ ps, Owner i p) : ChangesOwned i s t :=
  ⟨ps, hx (outcomeOfResult_eq_next.1 h), ho⟩

/-- An operation run for its state alone; its value is dropped. -/
theorem changesOwned_of_dropped {i : Instr} {α : Type} {x : Result (α × State)}
    (h : outcomeOfResult (x.map Prod.snd) = .next t) (hx : ∀ {a}, x = .ok (a, t) → ChangesOnly [] s t) :
    ChangesOwned i s t := by
  obtain ⟨a, hxa⟩ := map_snd_eq_ok.1 (outcomeOfResult_eq_next.1 h)
  exact ⟨[], hx hxa, by simp⟩

/-- An operation whose bytes go to whoever requested it (log 21). -/
theorem changesOwned_of_return {i : Instr} {x : Result (List Byte × State)} (h : outcomeOfReturn x = .next t)
    (hx : ∀ {bytes u}, x = .ok (bytes, u) → ChangesOnly [] s u) : ChangesOwned i s t := by
  obtain ⟨bytes, u, hxu, rfl⟩ := outcomeOfReturn_eq_next.1 h
  exact ⟨[], (hx hxu).trans (withRet_changesOnly bytes u), by simp⟩

theorem execXfer_changesOwned {tx : Byte} (h : execXfer tx s = .next t) : ChangesOwned (.xfer tx) s t := by
  refine changesOwned_of_return h fun hx => ?_
  obtain ⟨⟨rx, v⟩, hxfer, hv⟩ := map_eq_ok.1 hx
  cases hv
  exact xfer_changesOnly hxfer

theorem execRadioXact_changesOwned {first : Byte} {arg : XactArg} (h : execRadioXact first arg s = .next t) :
    ChangesOwned (.radioXact first arg) s t := by
  cases arg with
  | out data => exact changesOwned_of_dropped h radioXact_changesOnly
  | inp n => exact changesOwned_of_return h radioXact_changesOnly

theorem execRadioRRegister_changesOwned {a : Byte} {n : Nat} (h : execRadioRRegister a n s = .next t) :
    ChangesOwned (.radioRRegister a n) s t := by
  unfold execRadioRRegister at h
  split at h
  · exact changesOwned_of_return h radioXact_changesOnly
  · cases h

theorem execRadioWRegister_changesOwned {a : Byte} {data : List Byte} (h : execRadioWRegister a data s = .next t) :
    ChangesOwned (.radioWRegister a data) s t := by
  unfold execRadioWRegister at h
  split at h
  · exact changesOwned_of_dropped h radioXact_changesOnly
  · cases h

theorem execRadioRRxPayload_changesOwned (h : execRadioRRxPayload s = .next t) :
    ChangesOwned .radioRRxPayload s t := by
  obtain ⟨⟨res, s1⟩, hx, rfl⟩ := map_eq_ok.1 (outcomeOfResult_eq_next.1 h)
  exact ⟨[.rxp], (radioXact_changesOnly hx).trans (storeRxp_changesOnly res s1), by simp [Owner]⟩

/-- R245: every instruction changes only what it owns. -/
theorem exec_changesOwned : ∀ {i : Instr}, exec i s = .next t → ChangesOwned i s t
  | .regRead _ _, h => changesOwned_of_return h regRead_changesOnly
  | .regWrite _ _, h => changesOwned_of_result h regWrite_changesOnly (by simp)
  | .statusReset, h => changesOwned_of_result h statusReset_changesOnly (by simp)
  | .statusRead, h => changesOwned_of_result h statusRead_changesOnly (by simp [Owner])
  | .init, h => changesOwned_of_result h initRadio_changesOnly (by simp [Owner])
  | .flushTx, h => changesOwned_of_result h flushTx_changesOnly (by simp)
  | .wTxPayload _, h => changesOwned_of_result h wTxPayload_changesOnly (by simp)
  | .transmit _, h => changesOwned_of_result h transmit_changesOnly (by simp)
  | .rRxPayload, h => changesOwned_of_result h rRxPayload_changesOnly (by simp [Owner])
  | .receive, h => changesOwned_of_result h receive_changesOnly (by simp [Owner])
  | .poll, h => changesOwned_of_result h poll_changesOnly (by simp [Owner])
  | .pack, h => changesOwned_of_result h packFrame_changesOnly (by simp [Owner])
  | .faultcheck, h => changesOwned_of_result h faultcheck_changesOnly (by simp [Owner])
  | .waitCycle, h => by
    cases h
    exact ⟨[], waitFor_changesOnly .tCycle s, by simp⟩
  | .cycle, h => changesOwned_of_result h cycle_changesOnly (by simp [Owner])
  | .run, h => changesOwned_of_result h runProgram_changesOnly (by simp [Owner])
  | .radioXact _ _, h => execRadioXact_changesOwned h
  | .xfer _, h => execXfer_changesOwned h
  | .wait T, h => by
    cases h
    exact ⟨[], waitFor_changesOnly T s, by simp⟩
  | .csnEnable, h => changesOwned_of_result h csnEnable_changesOnly (by simp [Owner])
  | .csnDisable, h => changesOwned_of_result h csnDisable_changesOnly (by simp [Owner])
  | .ceHigh, h => changesOwned_of_result h ceHigh_changesOnly (by simp [Owner])
  | .ceLow, h => changesOwned_of_result h ceLow_changesOnly (by simp [Owner])
  | .attAssert, h => changesOwned_of_result h attAssert_changesOnly (by simp [Owner])
  | .attRelease, h => changesOwned_of_result h attRelease_changesOnly (by simp [Owner])
  | .faultOn, h => by
    cases h
    exact ⟨[.faultSig], faultOn_changesOnly s, by simp [Owner]⟩
  | .faultOff, h => by
    cases h
    exact ⟨[.faultSig], faultOff_changesOnly s, by simp [Owner]⟩
  | .radioRRegister _ _, h => execRadioRRegister_changesOwned h
  | .radioWRegister _ _, h => execRadioWRegister_changesOwned h
  | .radioFlushTx, h => changesOwned_of_dropped h radioXact_changesOnly
  | .radioWTxPayload _, h => changesOwned_of_dropped h radioXact_changesOnly
  | .radioRRxPayload, h => execRadioRRxPayload_changesOwned h
  | .padPollCmd, h => changesOwned_of_dropped h padExchange_changesOnly
  | .padReadyCmd, h => changesOwned_of_return h padCapture_changesOnly
  | .padFill, h => changesOwned_of_dropped h padExchange_changesOnly
  | .padNop _, h => changesOwned_of_return h padCapture_changesOnly
  | .tframe _ _ _ _, h => changesOwned_of_result h wTxPayload_changesOnly (by simp)
  | .statusByte b, h =>
    changesOwned_of_result h (fun hx => (giveDataByte_changesOnly b s).trans (faultcheck_changesOnly hx))
      (by simp [Owner])

/-- A part that changed belongs to the instruction. -/
theorem ChangesOwned.owner {i : Instr} (h : ChangesOwned i s t) (p : Part) (hp : ¬p.same s t) : Owner i p := by
  obtain ⟨ps, hc, ho⟩ := h
  exact ho p (by_contra fun hn => hp (hc.parts p hn))

theorem ChangesOwned.role {i : Instr} (h : ChangesOwned i s t) (hp : t.rxp ≠ s.rxp) : s.cfg.role = .rx := by
  obtain ⟨ps, hc, -⟩ := h
  exact hc.role hp

theorem ChangesOwned.fixed {i : Instr} (h : ChangesOwned i s t) : sameFixed s t := by
  obtain ⟨ps, hc, -⟩ := h
  exact hc.fixed

/-- Settles O15: what each instruction changes it owns, and `rxp` has its one writer. -/
theorem onlyTheOwnerWrites : Obligations.OnlyTheOwnerWrites := by
  intro i s t h
  have hc : ChangesOwned i s t := exec_changesOwned h
  exact ⟨hc.owner .cf, hc.owner .tf, hc.owner .st, fun hp => ⟨hc.role hp, hc.owner .rxp hp⟩, hc.owner .outcome,
    hc.owner .initDone, hc.owner .phase, hc.owner .csn, hc.owner .ce, hc.owner .att, hc.owner .faultSig, hc.fixed⟩

/-! ## init_done over a step -/

/-- R152: of the two owners of `init_done` neither ends with 0. -/
theorem exec_keeps_initDone {i : Instr} (h : exec i s = .next t) (hi : s.initDone = true) : t.initDone = true := by
  by_contra hne
  have hchanged : t.initDone ≠ s.initDone := fun he => hne (he.trans hi)
  have howner : i = .init ∨ i = .run := (exec_changesOwned h).owner .initDone hchanged
  rcases howner with rfl | rfl
  · exact hne (initRadio_initDone (outcomeOfResult_eq_next.1 h))
  · exact hne (runProgram_initDone (outcomeOfResult_eq_next.1 h))

theorem fetch_eq_reset (h : fetch s = (.reset, u)) :
    ∃ rest, s.inputs = .reset :: rest ∧ u = { s with inputs := rest } := by
  unfold fetch at h
  split at h
  next rest hin =>
    cases h
    exact ⟨rest, hin, rfl⟩
  next => split at h <;> cases h
  next => cases h

/-- An instruction runs from the state as it was, but for the pending inputs. -/
theorem fetch_eq_run {i : Instr} (h : fetch s = (.run i, u)) : ∃ rest, u = { s with inputs := rest } := by
  unfold fetch at h
  split at h
  next => cases h
  next rest _ =>
    split at h <;> cases h
    exact ⟨rest, rfl⟩
  next =>
    cases h
    exact ⟨s.inputs, rfl⟩

/-- A step that answers a next state took the reset line or ran one instruction. -/
theorem step_eq_next (h : step s = .next t) :
    (∃ s1, fetch s = (.reset, s1) ∧ t = resetBlock s1) ∨ ∃ i s1, fetch s = (.run i, s1) ∧ exec i s1 = .next t := by
  unfold step at h
  split at h
  next s1 hf =>
    cases h
    exact .inl ⟨s1, hf, rfl⟩
  next i s1 hf => exact .inr ⟨i, s1, hf, h⟩
  next => cases h

/-- Settles O12: the reset input keeps the configuration, and an instruction keeps both. -/
theorem initDoneIsNeverCleared : Obligations.InitDoneIsNeverCleared := by
  intro s t h
  rcases step_eq_next h with ⟨s1, hf, rfl⟩ | ⟨i, s1, hf, hexec⟩
  · obtain ⟨rest, hin, rfl⟩ := fetch_eq_reset hf
    exact ⟨rfl, fun hne => absurd (by simp [hin]) hne⟩
  · obtain ⟨rest, rfl⟩ := fetch_eq_run hf
    obtain ⟨hcfg, -, -⟩ := (exec_changesOwned hexec).fixed
    exact ⟨hcfg, fun _ hi => exec_keeps_initDone hexec hi⟩

end Sys2Proof.Scope
end

section
/-! SUPPORT. No operation reads the interrupt line (R4, R242): each gives the same answer with the line at another
level, one lemma per operation in the order of the model's files, and the statement that follows. -/

namespace Sys2Proof.Scope

open Sys2Proof.Machine Sys2Proof.Safety

/-! ## The interrupt line set, and the model's updates -/

/-- The interrupt line at the level `b`. -/
def setIrq (b : Bool) (s : State) : State := { s with irqN := b }

/-- The interrupt line set behind a value handed over. -/
def setIrqSnd {α : Type} (b : Bool) (r : α × State) : α × State := (r.1, setIrq b r.2)

variable (b : Bool) (s : State)

theorem setIrq_cfg : (setIrq b s).cfg = s.cfg := rfl
theorem waitFor_setIrq (T : TimeParam) : waitFor T (setIrq b s) = setIrq b (waitFor T s) := rfl
theorem faultOn_setIrq : faultOn (setIrq b s) = setIrq b (faultOn s) := rfl
theorem faultOff_setIrq : faultOff (setIrq b s) = setIrq b (faultOff s) := rfl

/-! ## Results -/

/-- Two runs in step: if the first halves agree but for `p`, and the second halves but for `q`, the wholes agree but for
`q`. -/
theorem bind_map_map {α β : Type} {p : α → α} {q : β → β} {x y : Result α} {f g : α → Result β} (hx : y = x.map p)
    (hf : ∀ a, g (p a) = (f a).map q) : (y >>= g) = (x >>= f).map q := by
  subst hx
  cases x with
  | error e => rfl
  | ok a => exact hf a

/-- A guard that both runs decide alike. -/
theorem ite_map {α : Type} {q : α → α} {c : Prop} [Decidable c] {x x' y y' : Result α} (hx : x' = x.map q)
    (hy : y' = y.map q) : (if c then x' else y') = (if c then x else y).map q := by
  split
  · exact hx
  · exact hy

theorem outcomeOfResult_setIrq (x : Result State) :
    outcomeOfResult (x.map (setIrq b)) = withIrq b (outcomeOfResult x) := by
  rcases x with (f | r) | t <;> rfl

theorem outcomeOfReturn_setIrq (x : Result (List Byte × State)) :
    outcomeOfReturn (x.map (setIrqSnd b)) = withIrq b (outcomeOfReturn x) := by
  rcases x with (f | r) | t <;> rfl

/-- What is done with the value of a result does not see the line. -/
theorem map_setIrqSnd {α β : Type} {p : β → β} {f : α × State → β} (x : Result (α × State))
    (hf : ∀ r, f (setIrqSnd b r) = p (f r)) : (x.map (setIrqSnd b)).map f = (x.map f).map p := by
  cases x with
  | error e => rfl
  | ok r => exact congrArg Except.ok (hf r)

/-! ## Micro-operations

Guards and updates do not mention the line, so that each branch agrees by computation. -/

theorem csnEnable_setIrq : csnEnable (setIrq b s) = (csnEnable s).map (setIrq b) :=
  ite_map rfl (ite_map rfl rfl)

theorem csnDisable_setIrq : csnDisable (setIrq b s) = (csnDisable s).map (setIrq b) := ite_map rfl rfl

theorem xfer_setIrq (tx : Byte) : xfer tx (setIrq b s) = (xfer tx s).map (setIrqSnd b) :=
  ite_map rfl (ite_map rfl rfl)

theorem ceHigh_setIrq : ceHigh (setIrq b s) = (ceHigh s).map (setIrq b) := ite_map rfl (ite_map rfl rfl)

theorem ceLow_setIrq : ceLow (setIrq b s) = (ceLow s).map (setIrq b) := ite_map rfl rfl

theorem attAssert_setIrq : attAssert (setIrq b s) = (attAssert s).map (setIrq b) := ite_map rfl (ite_map rfl rfl)

theorem attRelease_setIrq : attRelease (setIrq b s) = (attRelease s).map (setIrq b) := ite_map rfl rfl

/-! ## Exchanges and transactions -/

theorem exchangeAll_setIrq (T : TimeParam) (txs : List Byte) :
    ∀ s, exchangeAll T txs (setIrq b s) = (exchangeAll T txs s).map (setIrqSnd b) := by
  induction txs with
  | nil => exact fun _ => rfl
  | cons tx txs ih =>
    intro s
    refine bind_map_map (xfer_setIrq b (waitFor T s) tx) fun ⟨rx, s1⟩ => ?_
    exact bind_map_map (ih s1) fun _ => rfl

theorem radioXact_setIrq (first : Byte) (arg : XactArg) :
    radioXact first arg (setIrq b s) = (radioXact first arg s).map (setIrqSnd b) := by
  refine ite_map rfl (bind_map_map (csnEnable_setIrq b s) fun s1 => ?_)
  refine bind_map_map (exchangeAll_setIrq b _ _ s1) fun ⟨got, s2⟩ => ?_
  exact bind_map_map (csnDisable_setIrq b s2) fun _ => rfl

theorem regWrite_setIrq (a : Byte) (data : List Byte) :
    regWrite a data (setIrq b s) = (regWrite a data s).map (setIrq b) :=
  ite_map (bind_map_map (radioXact_setIrq b s _ _) fun _ => rfl) rfl

theorem regRead_setIrq (a : Byte) (n : Nat) : regRead a n (setIrq b s) = (regRead a n s).map (setIrqSnd b) :=
  ite_map (radioXact_setIrq b s _ _) rfl

theorem statusReset_setIrq : statusReset (setIrq b s) = (statusReset s).map (setIrq b) := regWrite_setIrq b s _ _

theorem statusRead_setIrq : statusRead (setIrq b s) = (statusRead s).map (setIrq b) :=
  bind_map_map (regRead_setIrq b s _ _) fun _ => rfl

theorem recovery_setIrq : recovery (setIrq b s) = (recovery s).map (setIrq b) :=
  bind_map_map (statusReset_setIrq b (faultOn s)) fun _ => rfl

theorem handleStatus_setIrq (d : Byte) : handleStatus d (setIrq b s) = (handleStatus d s).map (setIrq b) :=
  ite_map (recovery_setIrq b { s with outcome := outcomeOf s.cfg d }) rfl

theorem padExchange_setIrq (k : Nat) : padExchange k (setIrq b s) = (padExchange k s).map (setIrqSnd b) :=
  xfer_setIrq b (waitFor .tPadSettle s) _

theorem padCapture_setIrq (k : Nat) : padCapture k (setIrq b s) = (padCapture k s).map (setIrqSnd b) := by
  unfold padCapture
  rw [padExchange_setIrq]
  exact map_setIrqSnd b _ fun _ => rfl

/-! ## Poll, initialization, transmit and receive -/

theorem poll_setIrq : poll (setIrq b s) = (poll s).map (setIrq b) := by
  refine bind_map_map (attAssert_setIrq b s) fun s1 => ?_
  refine bind_map_map (exchangeAll_setIrq b _ _ s1) fun ⟨r, s2⟩ => ?_
  exact bind_map_map (attRelease_setIrq b s2) fun _ => rfl

theorem regWriteAll_setIrq (ws : List (Byte × List Byte)) :
    ∀ s, regWriteAll ws (setIrq b s) = (regWriteAll ws s).map (setIrq b) := by
  induction ws with
  | nil => exact fun _ => rfl
  | cons w ws ih => exact fun s => bind_map_map (regWrite_setIrq b s w.1 w.2) ih

theorem initRadio_setIrq : initRadio (setIrq b s) = (initRadio s).map (setIrq b) :=
  ite_map rfl (bind_map_map (regWriteAll_setIrq b _ s) fun _ => rfl)

theorem flushTx_setIrq : flushTx (setIrq b s) = (flushTx s).map (setIrq b) :=
  bind_map_map (radioXact_setIrq b s _ _) fun _ => rfl

theorem wTxPayload_setIrq (p : List Byte) : wTxPayload p (setIrq b s) = (wTxPayload p s).map (setIrq b) :=
  ite_map (regWrite_setIrq b s _ _) rfl

theorem enablePulse_setIrq : enablePulse (setIrq b s) = (enablePulse s).map (setIrq b) := by
  refine bind_map_map (ceHigh_setIrq b (waitFor .tTxPre s)) fun s1 => ?_
  exact bind_map_map (ceLow_setIrq b (waitFor .tCePulse s1)) fun _ => rfl

theorem transmit_setIrq (p : List Byte) : transmit p (setIrq b s) = (transmit p s).map (setIrq b) := by
  refine ite_map rfl (ite_map rfl (ite_map rfl ?_))
  refine bind_map_map (flushTx_setIrq b s) fun s1 => ?_
  exact bind_map_map (wTxPayload_setIrq b s1 p) (enablePulse_setIrq b)

theorem rRxPayload_setIrq : rRxPayload (setIrq b s) = (rRxPayload s).map (setIrq b) :=
  bind_map_map (regRead_setIrq b s _ _) fun _ => rfl

theorem receive_setIrq : receive (setIrq b s) = (receive s).map (setIrq b) := by
  refine ite_map rfl (ite_map rfl ?_)
  refine bind_map_map (ceHigh_setIrq b s) fun s1 => ?_
  refine bind_map_map (ceLow_setIrq b (waitFor .tRxListen s1)) fun s2 => ?_
  exact bind_map_map (rRxPayload_setIrq b s2) (statusReset_setIrq b)

/-! ## The bridge loop -/

theorem packFrame_setIrq : packFrame (setIrq b s) = (packFrame s).map (setIrq b) := by
  have hcf : (setIrq b s).cf = s.cf := rfl
  unfold packFrame
  rw [hcf]
  cases s.cf.buttons <;> cases s.cf.lx <;> cases s.cf.ly <;> rfl

theorem faultcheck_setIrq : faultcheck (setIrq b s) = (faultcheck s).map (setIrq b) := by
  refine ite_map rfl (bind_map_map (statusRead_setIrq b s) fun s1 => ?_)
  have hst : (setIrq b s1).st = s1.st := rfl
  rw [hst]
  cases s1.st with
  | none => rfl
  | some d => exact handleStatus_setIrq b s1 d

theorem transmitFrame_setIrq : transmitFrame (setIrq b s) = (transmitFrame s).map (setIrq b) := by
  have htf : (setIrq b s).tf = s.tf := rfl
  unfold transmitFrame
  rw [htf]
  cases s.tf with
  | none => rfl
  | some p => exact transmit_setIrq b s p.toList

theorem cycle_setIrq : cycle (setIrq b s) = (cycle s).map (setIrq b) := by
  refine ite_map rfl (ite_map rfl ?_)
  refine bind_map_map (poll_setIrq b { s with phase := .polling }) fun s1 => ?_
  refine bind_map_map (packFrame_setIrq b s1) fun s2 => ?_
  refine bind_map_map (transmitFrame_setIrq b { s2 with phase := .transmitting }) fun s3 => ?_
  exact bind_map_map (faultcheck_setIrq b { s3 with phase := .faultcheck }) fun _ => rfl

theorem runProgram_setIrq : runProgram (setIrq b s) = (runProgram s).map (setIrq b) :=
  ite_map rfl (bind_map_map (initRadio_setIrq b { s with phase := .init }) fun _ => rfl)

/-! ## Instructions -/

variable {b s}

theorem withIrq_of_result {x y : Result State} (h : y = x.map (setIrq b)) :
    outcomeOfResult y = withIrq b (outcomeOfResult x) := by
  rw [h, outcomeOfResult_setIrq]

theorem withIrq_of_dropped {α : Type} {x y : Result (α × State)} (h : y = x.map (setIrqSnd b)) :
    outcomeOfResult (y.map Prod.snd) = withIrq b (outcomeOfResult (x.map Prod.snd)) :=
  withIrq_of_result (by rw [h]; exact map_setIrqSnd b x fun _ => rfl)

theorem withIrq_of_return {x y : Result (List Byte × State)} (h : y = x.map (setIrqSnd b)) :
    outcomeOfReturn y = withIrq b (outcomeOfReturn x) := by
  rw [h, outcomeOfReturn_setIrq]

/-- A guard of an instruction that both runs decide alike. -/
theorem withIrq_of_guard {c : Prop} [Decidable c] {o o' : Host.Outcome State Fault Refusal} {r : Refusal}
    (h : o' = withIrq b o) : (if c then o' else .refused r) = withIrq b (if c then o else .refused r) := by
  split
  · exact h
  · rfl

variable (b s)

theorem execXfer_setIrq (tx : Byte) : execXfer tx (setIrq b s) = withIrq b (execXfer tx s) := by
  refine withIrq_of_return ?_
  rw [xfer_setIrq]
  exact map_setIrqSnd b _ fun _ => rfl

theorem execRadioXact_setIrq (first : Byte) (arg : XactArg) :
    execRadioXact first arg (setIrq b s) = withIrq b (execRadioXact first arg s) := by
  cases arg with
  | out data => exact withIrq_of_dropped (radioXact_setIrq b s _ _)
  | inp n => exact withIrq_of_return (radioXact_setIrq b s _ _)

theorem execRadioRRxPayload_setIrq : execRadioRRxPayload (setIrq b s) = withIrq b (execRadioRRxPayload s) := by
  refine withIrq_of_result ?_
  rw [setIrq_cfg, radioXact_setIrq]
  exact map_setIrqSnd b _ fun _ => rfl

/-- R242: no instruction samples the interrupt line. -/
theorem exec_setIrq : ∀ i, exec i (setIrq b s) = withIrq b (exec i s)
  | .regRead a n => withIrq_of_return (regRead_setIrq b s a n)
  | .regWrite a data => withIrq_of_result (regWrite_setIrq b s a data)
  | .statusReset => withIrq_of_result (statusReset_setIrq b s)
  | .statusRead => withIrq_of_result (statusRead_setIrq b s)
  | .init => withIrq_of_result (initRadio_setIrq b s)
  | .flushTx => withIrq_of_result (flushTx_setIrq b s)
  | .wTxPayload p => withIrq_of_result (wTxPayload_setIrq b s p)
  | .transmit p => withIrq_of_result (transmit_setIrq b s p)
  | .rRxPayload => withIrq_of_result (rRxPayload_setIrq b s)
  | .receive => withIrq_of_result (receive_setIrq b s)
  | .poll => withIrq_of_result (poll_setIrq b s)
  | .pack => withIrq_of_result (packFrame_setIrq b s)
  | .faultcheck => withIrq_of_result (faultcheck_setIrq b s)
  | .waitCycle => congrArg Host.Outcome.next (waitFor_setIrq b s .tCycle)
  | .cycle => withIrq_of_result (cycle_setIrq b s)
  | .opselReserved => rfl
  | .run => withIrq_of_result (runProgram_setIrq b s)
  | .radioXact first arg => execRadioXact_setIrq b s first arg
  | .xfer tx => execXfer_setIrq b s tx
  | .wait T => congrArg Host.Outcome.next (waitFor_setIrq b s T)
  | .csnEnable => withIrq_of_result (csnEnable_setIrq b s)
  | .csnDisable => withIrq_of_result (csnDisable_setIrq b s)
  | .ceHigh => withIrq_of_result (ceHigh_setIrq b s)
  | .ceLow => withIrq_of_result (ceLow_setIrq b s)
  | .attAssert => withIrq_of_result (attAssert_setIrq b s)
  | .attRelease => withIrq_of_result (attRelease_setIrq b s)
  | .faultOn => congrArg Host.Outcome.next (faultOn_setIrq b s)
  | .faultOff => congrArg Host.Outcome.next (faultOff_setIrq b s)
  | .radioRRegister _ _ => withIrq_of_guard (withIrq_of_return (radioXact_setIrq b s _ _))
  | .radioWRegister _ _ => withIrq_of_guard (withIrq_of_dropped (radioXact_setIrq b s _ _))
  | .radioFlushTx => withIrq_of_dropped (radioXact_setIrq b s _ _)
  | .radioWTxPayload _ => withIrq_of_dropped (radioXact_setIrq b s _ _)
  | .radioRRxPayload => execRadioRRxPayload_setIrq b s
  | .padPollCmd => withIrq_of_dropped (padExchange_setIrq b s 0)
  | .padReadyCmd => withIrq_of_return (padCapture_setIrq b s 1)
  | .padFill => withIrq_of_dropped (padExchange_setIrq b s 2)
  | .padNop f => withIrq_of_return (padCapture_setIrq b s (padFieldPosition f))
  | .tframe _ _ _ _ => withIrq_of_result (wTxPayload_setIrq b s _)
  | .statusByte d => withIrq_of_result (faultcheck_setIrq b (giveDataByte d s))

/-- Settles O14: each operation commutes with setting the line, so each instruction does. -/
theorem interruptLineIsNeverRead : Obligations.InterruptLineIsNeverRead := fun i s b => exec_setIrq b s i

end Sys2Proof.Scope
end

section
/-! SUPPORT. What an operation does, as a chain of single acts (R21), in the order of the model's files; so that what each
act keeps, every instruction and every step keeps. Then the statements that follow from it. -/

namespace Sys2Proof.Invariants

open Sys2Proof.Machine Sys2Proof.Safety Sys2Proof.Scope

/-! ## Acts -/

/-- One act of an operation: a micro-operation whose guards pass (R100 to R109), a write of registers that belong to the
block or the model alone, the one write of `rxp` (R16), or the entry into the loop (R208). -/
inductive Act : State → State → Prop where
  | wait (T : TimeParam) (s : State) : Act s (waitFor T s)
  | exchange {s : State} (hsel : s.csn = s.att) (tx : Byte) : Act s (exchange tx s)
  | csnLow {s : State} (hatt : s.att = false) (hcsn : s.csn = true) : Act s (driveCsnLow s)
  | csnHigh {s : State} (hcsn : s.csn = false) : Act s (driveCsnHigh s)
  | ceHigh {s : State} (hce : s.ce = false) (hcsn : s.csn = true) : Act s (ceHighState s)
  | ceLow {s : State} (hce : s.ce = true) : Act s (ceLowState s)
  | attAssert {s : State} (hcsn : s.csn = true) (hatt : s.att = false) : Act s (attAssertState s)
  | attRelease {s : State} (hatt : s.att = true) : Act s (emit (.att false) { s with att := false })
  | faultOn (s : State) : Act s (faultOn s)
  | faultOff (s : State) : Act s (faultOff s)
  | write (cf : ControllerFrame) (tf : Option Bytes5) (st : Option Byte) (outcome : TxOutcome) (initDone : Bool)
      (phase : Phase) (ret answers : List Byte) (s : State) :
      Act s { s with
        cf := cf, tf := tf, st := st, outcome := outcome, initDone := initDone, phase := phase, ret := ret,
        answers := answers }
  | storeRxp (bytes : List Byte) (s : State) : Act s (storeRxp bytes s)
  | enterLoop (s : State) : Act s { s with seq := .loop }

/-- A chain of acts. -/
abbrev Acts : State → State → Prop := Relation.ReflTransGen Act

variable {s t u : State}

/-- What every act keeps, a chain of acts keeps. -/
theorem Acts.keep {p : State → Prop} (hact : ∀ {s t}, Act s t → p s → p t) (h : Acts s t) (hs : p s) : p t := by
  induction h with
  | refl => exact hs
  | tail _ hlast ih => exact hact hlast ih

/-! ## Micro-operations -/

theorem xfer_act {tx rx : Byte} (h : xfer tx s = .ok (rx, t)) : Act s t := by
  obtain ⟨hsel, -, rfl⟩ := xfer_eq_ok.1 h
  exact .exchange hsel tx

theorem csnEnable_act (h : csnEnable s = .ok t) : Act s t := by
  obtain ⟨hatt, hcsn, rfl⟩ := csnEnable_eq_ok.1 h
  exact .csnLow hatt hcsn

theorem csnDisable_act (h : csnDisable s = .ok t) : Act s t := by
  obtain ⟨hcsn, rfl⟩ := csnDisable_eq_ok.1 h
  exact .csnHigh hcsn

theorem ceHigh_act (h : ceHigh s = .ok t) : Act s t := by
  obtain ⟨hce, hcsn, rfl⟩ := ceHigh_eq_ok.1 h
  exact .ceHigh hce hcsn

theorem ceLow_act (h : ceLow s = .ok t) : Act s t := by
  obtain ⟨hce, rfl⟩ := ceLow_eq_ok.1 h
  exact .ceLow hce

theorem attAssert_act (h : attAssert s = .ok t) : Act s t := by
  obtain ⟨hcsn, hatt, rfl⟩ := attAssert_eq_ok.1 h
  exact .attAssert hcsn hatt

theorem attRelease_act (h : attRelease s = .ok t) : Act s t := by
  obtain ⟨hatt, rfl⟩ := attRelease_eq_ok.1 h
  exact .attRelease hatt

/-! ## Brackets -/

theorem exchangeAll_acts (T : TimeParam) (txs : List Byte) :
    ∀ {s t : State} {rxs : List Byte}, exchangeAll T txs s = .ok (rxs, t) → Acts s t := by
  induction txs with
  | nil =>
    intro s t rxs h
    cases h
    exact .refl
  | cons tx txs ih =>
    intro s t rxs h
    obtain ⟨⟨rx, s1⟩, hxfer, h⟩ := bind_eq_ok.1 h
    obtain ⟨⟨rest, s2⟩, hrest, h⟩ := bind_eq_ok.1 h
    cases h
    exact .head (.wait T s) (.head (xfer_act hxfer) (ih hrest))

theorem radioXact_acts {first : Byte} {arg : XactArg} {res : List Byte} (h : radioXact first arg s = .ok (res, t)) :
    Acts s t := by
  obtain ⟨-, h⟩ := guard_eq_ok.1 h
  obtain ⟨s1, hlow, h⟩ := bind_eq_ok.1 h
  obtain ⟨⟨got, s2⟩, hbytes, h⟩ := bind_eq_ok.1 h
  obtain ⟨s3, hhigh, h⟩ := bind_eq_ok.1 h
  cases h
  exact .head (csnEnable_act hlow) ((exchangeAll_acts _ _ hbytes).tail (csnDisable_act hhigh))

theorem poll_acts (h : poll s = .ok t) : Acts s t := by
  obtain ⟨s1, hassert, h⟩ := bind_eq_ok.1 h
  obtain ⟨⟨got, s2⟩, hbytes, h⟩ := bind_eq_ok.1 h
  obtain ⟨s3, hrelease, h⟩ := bind_eq_ok.1 h
  cases h
  exact .head (attAssert_act hassert)
    (((exchangeAll_acts _ _ hbytes).tail (attRelease_act hrelease)).tail (.write ..))

theorem enablePulse_acts (h : enablePulse s = .ok t) : Acts s t := by
  obtain ⟨s1, hhigh, h⟩ := bind_eq_ok.1 h
  obtain ⟨s2, hlow, h⟩ := bind_eq_ok.1 h
  cases h
  exact .head (.wait .tTxPre s) (.head (ceHigh_act hhigh) (.head (.wait .tCePulse s1) (.head (ceLow_act hlow)
    (.single (.wait .tTxPost s2)))))

theorem padExchange_acts {k : Nat} {rx : Byte} (h : padExchange k s = .ok (rx, t)) : Acts s t :=
  .head (.wait .tPadSettle s) (.single (xfer_act h))

theorem padCapture_acts {k : Nat} {bytes : List Byte} (h : padCapture k s = .ok (bytes, t)) : Acts s t := by
  obtain ⟨⟨rx, u⟩, hx, h⟩ := map_eq_ok.1 h
  cases h
  exact padExchange_acts hx

/-! ## Register transfers and recovery -/

theorem regWrite_acts {a : Byte} {data : List Byte} (h : regWrite a data s = .ok t) : Acts s t := by
  unfold regWrite at h
  split at h
  · obtain ⟨⟨res, s1⟩, hx, h⟩ := bind_eq_ok.1 h
    cases h
    exact radioXact_acts hx
  · cases h

theorem regRead_acts {a : Byte} {n : Nat} {res : List Byte} (h : regRead a n s = .ok (res, t)) : Acts s t := by
  unfold regRead at h
  split at h
  · exact radioXact_acts h
  · cases h

theorem statusReset_acts (h : statusReset s = .ok t) : Acts s t := regWrite_acts h

theorem statusRead_acts (h : statusRead s = .ok t) : Acts s t := by
  obtain ⟨⟨res, s1⟩, hread, h⟩ := bind_eq_ok.1 h
  cases h
  exact (regRead_acts hread).tail (.write ..)

theorem recovery_acts (h : recovery s = .ok t) : Acts s t := by
  obtain ⟨s1, hreset, h⟩ := bind_eq_ok.1 h
  cases h
  exact .head (.faultOn s) (((statusReset_acts hreset).tail (.wait .tFaultHold s1)).tail (.faultOff _))

theorem handleStatus_acts {b : Byte} (h : handleStatus b s = .ok t) : Acts s t := by
  unfold handleStatus at h
  split at h
  · exact .head (.write ..) (recovery_acts h)
  · cases h
    exact .single (.write ..)

/-! ## Initialization, transmit and receive -/

theorem regWriteAll_acts (ws : List (Byte × List Byte)) :
    ∀ {s t : State}, regWriteAll ws s = .ok t → Acts s t := by
  induction ws with
  | nil =>
    intro s t h
    cases h
    exact .refl
  | cons w ws ih =>
    intro s t h
    obtain ⟨s1, hwrite, h⟩ := bind_eq_ok.1 h
    exact (regWrite_acts hwrite).trans (ih h)

theorem initRadio_acts (h : initRadio s = .ok t) : Acts s t := by
  obtain ⟨-, h⟩ := guard_eq_ok.1 h
  obtain ⟨s1, hwrites, h⟩ := bind_eq_ok.1 h
  cases h
  exact ((regWriteAll_acts _ hwrites).tail (.wait .tInitSettle s1)).tail (.write ..)

theorem flushTx_acts (h : flushTx s = .ok t) : Acts s t := by
  obtain ⟨⟨res, s1⟩, hx, h⟩ := bind_eq_ok.1 h
  cases h
  exact radioXact_acts hx

theorem wTxPayload_acts {p : List Byte} (h : wTxPayload p s = .ok t) : Acts s t := by
  unfold wTxPayload at h
  split at h
  · exact regWrite_acts h
  · cases h

theorem transmit_acts {p : List Byte} (h : transmit p s = .ok t) : Acts s t := by
  obtain ⟨-, h⟩ := guard_eq_ok.1 h
  obtain ⟨-, h⟩ := guard_eq_ok.1 h
  obtain ⟨-, h⟩ := guard_eq_ok.1 h
  obtain ⟨s1, hflush, h⟩ := bind_eq_ok.1 h
  obtain ⟨s2, hload, h⟩ := bind_eq_ok.1 h
  exact (flushTx_acts hflush).trans ((wTxPayload_acts hload).trans (enablePulse_acts h))

theorem rRxPayload_acts (h : rRxPayload s = .ok t) : Acts s t := by
  obtain ⟨⟨res, s1⟩, hread, h⟩ := bind_eq_ok.1 h
  cases h
  exact (regRead_acts hread).tail (.storeRxp res s1)

theorem receive_acts (h : receive s = .ok t) : Acts s t := by
  obtain ⟨-, h⟩ := guard_eq_ok.1 h
  obtain ⟨-, h⟩ := guard_eq_ok.1 h
  obtain ⟨s1, hhigh, h⟩ := bind_eq_ok.1 h
  obtain ⟨s2, hlow, h⟩ := bind_eq_ok.1 h
  obtain ⟨s3, hread, h⟩ := bind_eq_ok.1 h
  exact .head (ceHigh_act hhigh) (.head (.wait .tRxListen s1) (.head (ceLow_act hlow)
    ((rRxPayload_acts hread).trans (statusReset_acts h))))

/-! ## The bridge loop -/

theorem packFrame_acts (h : packFrame s = .ok t) : Acts s t := by
  obtain ⟨b, lx, ly, -, -, -, rfl⟩ := packFrame_eq_ok.1 h
  exact .single (.write ..)

theorem faultcheck_acts (h : faultcheck s = .ok t) : Acts s t := by
  obtain ⟨-, h⟩ := guard_eq_ok.1 h
  obtain ⟨s1, hread, h⟩ := bind_eq_ok.1 h
  split at h
  · exact (statusRead_acts hread).trans (handleStatus_acts h)
  · cases h

theorem transmitFrame_acts (h : transmitFrame s = .ok t) : Acts s t := by
  unfold transmitFrame at h
  split at h
  · exact transmit_acts h
  · cases h

theorem cycle_acts (h : cycle s = .ok t) : Acts s t := by
  obtain ⟨-, h⟩ := guard_eq_ok.1 h
  obtain ⟨-, h⟩ := guard_eq_ok.1 h
  obtain ⟨s1, hpoll, h⟩ := bind_eq_ok.1 h
  obtain ⟨s2, hpack, h⟩ := bind_eq_ok.1 h
  obtain ⟨s3, hsend, h⟩ := bind_eq_ok.1 h
  obtain ⟨s4, hcheck, h⟩ := bind_eq_ok.1 h
  cases h
  have hpacked : Acts s s2 := .head (.write ..) ((poll_acts hpoll).trans (packFrame_acts hpack))
  have hsent : Acts s2 s3 := .head (.write ..) (transmitFrame_acts hsend)
  have hchecked : Acts s3 s4 := .head (.write ..) (faultcheck_acts hcheck)
  exact ((hpacked.trans (hsent.trans hchecked)).tail (.wait .tCycle s4)).tail (.write ..)

theorem runProgram_acts (h : runProgram s = .ok t) : Acts s t := by
  obtain ⟨-, h⟩ := guard_eq_ok.1 h
  obtain ⟨s1, hinit, h⟩ := bind_eq_ok.1 h
  cases h
  exact .head (.write ..) ((initRadio_acts hinit).tail (.enterLoop s1))

/-! ## Instructions -/

theorem acts_of_result {x : Result State} (h : outcomeOfResult x = .next t) (hx : x = .ok t → Acts s t) : Acts s t :=
  hx (outcomeOfResult_eq_next.1 h)

/-- An operation run for its state alone; its value is dropped. -/
theorem acts_of_dropped {α : Type} {x : Result (α × State)} (h : outcomeOfResult (x.map Prod.snd) = .next t)
    (hx : ∀ {a}, x = .ok (a, t) → Acts s t) : Acts s t := by
  obtain ⟨a, hxa⟩ := map_snd_eq_ok.1 (outcomeOfResult_eq_next.1 h)
  exact hx hxa

/-- An operation whose bytes go to whoever requested it (log 21). -/
theorem acts_of_return {x : Result (List Byte × State)} (h : outcomeOfReturn x = .next t)
    (hx : ∀ {bytes u}, x = .ok (bytes, u) → Acts s u) : Acts s t := by
  obtain ⟨bytes, u, hxu, rfl⟩ := outcomeOfReturn_eq_next.1 h
  exact (hx hxu).tail (.write ..)

theorem execXfer_acts {tx : Byte} (h : execXfer tx s = .next t) : Acts s t := by
  refine acts_of_return h fun hx => ?_
  obtain ⟨⟨rx, v⟩, hxfer, hv⟩ := map_eq_ok.1 hx
  cases hv
  exact .single (xfer_act hxfer)

theorem execRadioXact_acts {first : Byte} {arg : XactArg} (h : execRadioXact first arg s = .next t) : Acts s t := by
  cases arg with
  | out data => exact acts_of_dropped h radioXact_acts
  | inp n => exact acts_of_return h radioXact_acts

theorem execRadioRRegister_acts {a : Byte} {n : Nat} (h : execRadioRRegister a n s = .next t) : Acts s t := by
  unfold execRadioRRegister at h
  split at h
  · exact acts_of_return h radioXact_acts
  · cases h

theorem execRadioWRegister_acts {a : Byte} {data : List Byte} (h : execRadioWRegister a data s = .next t) :
    Acts s t := by
  unfold execRadioWRegister at h
  split at h
  · exact acts_of_dropped h radioXact_acts
  · cases h

theorem execRadioRRxPayload_acts (h : execRadioRRxPayload s = .next t) : Acts s t := by
  obtain ⟨⟨res, s1⟩, hx, rfl⟩ := map_eq_ok.1 (outcomeOfResult_eq_next.1 h)
  exact (radioXact_acts hx).tail (.storeRxp res s1)

/-- Every instruction that answers a next state is a chain of acts. -/
theorem exec_acts : ∀ {i : Instr}, exec i s = .next t → Acts s t
  | .regRead _ _, h => acts_of_return h regRead_acts
  | .regWrite _ _, h => acts_of_result h regWrite_acts
  | .statusReset, h => acts_of_result h statusReset_acts
  | .statusRead, h => acts_of_result h statusRead_acts
  | .init, h => acts_of_result h initRadio_acts
  | .flushTx, h => acts_of_result h flushTx_acts
  | .wTxPayload _, h => acts_of_result h wTxPayload_acts
  | .transmit _, h => acts_of_result h transmit_acts
  | .rRxPayload, h => acts_of_result h rRxPayload_acts
  | .receive, h => acts_of_result h receive_acts
  | .poll, h => acts_of_result h poll_acts
  | .pack, h => acts_of_result h packFrame_acts
  | .faultcheck, h => acts_of_result h faultcheck_acts
  | .waitCycle, h => by
    cases h
    exact .single (.wait .tCycle s)
  | .cycle, h => acts_of_result h cycle_acts
  | .run, h => acts_of_result h runProgram_acts
  | .radioXact _ _, h => execRadioXact_acts h
  | .xfer _, h => execXfer_acts h
  | .wait T, h => by
    cases h
    exact .single (.wait T s)
  | .csnEnable, h => acts_of_result h fun hx => .single (csnEnable_act hx)
  | .csnDisable, h => acts_of_result h fun hx => .single (csnDisable_act hx)
  | .ceHigh, h => acts_of_result h fun hx => .single (ceHigh_act hx)
  | .ceLow, h => acts_of_result h fun hx => .single (ceLow_act hx)
  | .attAssert, h => acts_of_result h fun hx => .single (attAssert_act hx)
  | .attRelease, h => acts_of_result h fun hx => .single (attRelease_act hx)
  | .faultOn, h => by
    cases h
    exact .single (.faultOn s)
  | .faultOff, h => by
    cases h
    exact .single (.faultOff s)
  | .radioRRegister _ _, h => execRadioRRegister_acts h
  | .radioWRegister _ _, h => execRadioWRegister_acts h
  | .radioFlushTx, h => acts_of_dropped h radioXact_acts
  | .radioWTxPayload _, h => acts_of_dropped h radioXact_acts
  | .radioRRxPayload, h => execRadioRRxPayload_acts h
  | .padPollCmd, h => acts_of_dropped h padExchange_acts
  | .padReadyCmd, h => acts_of_return h padCapture_acts
  | .padFill, h => acts_of_dropped h padExchange_acts
  | .padNop _, h => acts_of_return h padCapture_acts
  | .tframe _ _ _ _, h => acts_of_result h wTxPayload_acts
  | .statusByte _, h => acts_of_result h fun hx => .head (.write ..) (faultcheck_acts hx)

/-- What every act keeps, every instruction keeps. -/
theorem exec_keeps {p : State → Prop} (hact : ∀ {s t}, Act s t → p s → p t) {i : Instr} (h : exec i s = .next t)
    (hs : p s) : p t :=
  (exec_acts h).keep hact hs

/-! ## The trace -/

theorem Act.trace_grows (h : Act s t) : ∃ es, t.trace = s.trace ++ es := by
  cases h with
  | wait T => exact ⟨[.wait T], rfl⟩
  | exchange hsel tx => exact ⟨[.xfer tx (receivedByte s)], rfl⟩
  | csnLow => exact ⟨[.csn false], rfl⟩
  | csnHigh => exact ⟨[.csn true], rfl⟩
  | ceHigh => exact ⟨[.ce true], rfl⟩
  | ceLow => exact ⟨[.ce false], rfl⟩
  | attAssert => exact ⟨[.att true], rfl⟩
  | attRelease => exact ⟨[.att false], rfl⟩
  | faultOn => exact ⟨[.faultSig true], rfl⟩
  | faultOff => exact ⟨[.faultSig false], rfl⟩
  | write | storeRxp | enterLoop => exact ⟨[], (List.append_nil _).symm⟩

/-- Settles O13: every act only appends, so every chain of acts does. -/
theorem traceOnlyGrows : Obligations.TraceOnlyGrows := by
  intro i s t h
  refine exec_keeps (p := fun u => ∃ es, u.trace = s.trace ++ es) ?_ h ⟨[], (List.append_nil _).symm⟩
  rintro u v hact ⟨es, hes⟩
  obtain ⟨fs, hfs⟩ := hact.trace_grows
  exact ⟨es ++ fs, by rw [hfs, hes, List.append_assoc]⟩

/-! ## The invariant -/

/-- An event by itself, and what RADIO does after it, touches nothing the invariant speaks of (R21, R53, R54). -/
theorem emit_inv {e : Event} : Inv (emit e s) ↔ Inv s := by simp [Safety.Inv]

theorem exchange_inv (tx : Byte) (h : Inv s) : Inv (exchange tx s) := by
  obtain ⟨hboth, hmap, hpad, hsent, hrxp⟩ := h
  refine emit_inv.2 ⟨hboth, ?_, ?_, ?_, hrxp⟩
  · cases hcsn : s.csn <;> simpa [hcsn] using hmap
  · cases hatt : s.att
    · simpa [hatt] using hpad
    · simpa [hatt] using padAdvance_le _ _
  · intro hcsn
    have hcsn : s.csn = true := hcsn
    simpa [hcsn] using hsent hcsn

theorem storeRxp_inv (bytes : List Byte) (h : Inv s) : Inv (storeRxp bytes s) := by
  obtain ⟨hboth, hmap, hpad, hsent, hrxp⟩ := h
  refine ⟨hboth, hmap, hpad, hsent, fun hrole => ?_⟩
  have hrole : s.cfg.role = .tx := hrole
  simpa [hrole] using hrxp hrole

/-- R27, R56, R48, R16: every act keeps the invariant. -/
theorem Act.keeps_inv (h : Act s t) (hs : Inv s) : Inv t := by
  obtain ⟨hboth, hmap, hpad, hsent, hrxp⟩ := hs
  cases h with
  | wait | ceLow | faultOn | faultOff => exact emit_inv.2 ⟨hboth, hmap, hpad, hsent, hrxp⟩
  | exchange hsel tx => exact exchange_inv tx ⟨hboth, hmap, hpad, hsent, hrxp⟩
  | csnLow hatt => exact emit_inv.2 ⟨by simp [hatt], hmap, hpad, fun _ => rfl, hrxp⟩
  | csnHigh => exact emit_inv.2 ⟨by simp, radioDeselect_wf _ _ _ hmap, hpad, fun _ => rfl, hrxp⟩
  | ceHigh => exact emit_inv.2 ⟨hboth, radioEnable_wf _ _ _ hmap, hpad, by simpa using hsent, hrxp⟩
  | attAssert hcsn => exact emit_inv.2 ⟨by simp [hcsn], hmap, Nat.zero_le 9, hsent, hrxp⟩
  | attRelease => exact emit_inv.2 ⟨by simp, hmap, hpad, hsent, hrxp⟩
  | storeRxp bytes => exact storeRxp_inv bytes ⟨hboth, hmap, hpad, hsent, hrxp⟩
  | write | enterLoop => exact ⟨hboth, hmap, hpad, hsent, hrxp⟩

theorem exec_keeps_inv {i : Instr} (h : exec i s = .next t) (hs : Inv s) : Inv t :=
  exec_keeps Act.keeps_inv h hs

/-- The reset line deselects both devices and empties `rxp`; a transaction it cuts short is forgotten (R261, R263). -/
theorem resetBlock_keeps_inv (h : Inv s) : Inv (resetBlock s) := by
  obtain ⟨-, hmap, hpad, hsent, -⟩ := h
  refine ⟨by simp [resetBlock, State.reset], ?_, hpad, fun _ => ?_, fun _ => rfl⟩
  · cases hcsn : s.csn
    · simp [resetBlock, hcsn, radioUnknown, Memory.wf, Memory.wfFrom]
    · simpa [resetBlock, hcsn] using hmap
  · cases hcsn : s.csn
    · simp [resetBlock, hcsn]
    · simpa [resetBlock, hcsn] using hsent hcsn

/-- Settles O9: every act keeps the invariant, so every instruction does, and the reset line does. -/
theorem stepKeepsTheInvariant : Obligations.StepKeepsTheInvariant := by
  refine ⟨fun s t hs h => ?_, fun i s t hs h => exec_keeps_inv h hs⟩
  rcases step_eq_next h with ⟨s1, hfetch, rfl⟩ | ⟨i, s1, hfetch, hexec⟩
  · obtain ⟨rest, -, rfl⟩ := fetch_eq_reset hfetch
    exact resetBlock_keeps_inv hs
  · obtain ⟨rest, rfl⟩ := fetch_eq_run hfetch
    exact exec_keeps_inv hexec hs

end Sys2Proof.Invariants
end

section
/-! SUPPORT. The lines at the end of an operation (R28, R246), the place of the program (R208, R209), and the statement
that every step from idle lines ends with idle lines and the loop goes on. -/

namespace Sys2Proof.Invariants

open Sys2Proof.Machine Sys2Proof.Safety Sys2Proof.Scope

variable {s t : State}

/-! ## The diagnostic signal: every operation but a micro-operation leaves it low (R204) -/

theorem recovery_faultSig (h : recovery s = .ok t) : t.faultSig = false := by
  obtain ⟨s1, -, h⟩ := bind_eq_ok.1 h
  cases h
  exact faultOff_faultSig _

theorem handleStatus_faultSig {b : Byte} (h : handleStatus b s = .ok t) (hs : s.faultSig = false) :
    t.faultSig = false := by
  unfold handleStatus at h
  split at h
  · exact recovery_faultSig h
  · cases h
    exact hs

theorem faultcheck_faultSig (h : faultcheck s = .ok t) (hs : s.faultSig = false) : t.faultSig = false := by
  obtain ⟨-, h⟩ := guard_eq_ok.1 h
  obtain ⟨s1, hread, h⟩ := bind_eq_ok.1 h
  have hlow : s1.faultSig = s.faultSig := (statusRead_changesOnly hread).parts .faultSig (by simp)
  split at h
  · exact handleStatus_faultSig h (hlow.trans hs)
  · cases h

theorem cycle_faultSig (h : cycle s = .ok t) (hs : s.faultSig = false) : t.faultSig = false := by
  obtain ⟨-, h⟩ := guard_eq_ok.1 h
  obtain ⟨-, h⟩ := guard_eq_ok.1 h
  obtain ⟨s1, hpoll, h⟩ := bind_eq_ok.1 h
  obtain ⟨s2, hpack, h⟩ := bind_eq_ok.1 h
  obtain ⟨s3, hsend, h⟩ := bind_eq_ok.1 h
  obtain ⟨s4, hcheck, h⟩ := bind_eq_ok.1 h
  cases h
  have hpolled : s1.faultSig = s.faultSig := (poll_changesOnly hpoll).parts .faultSig (by simp)
  have hpacked : s2.faultSig = s1.faultSig := (packFrame_changesOnly hpack).parts .faultSig (by simp)
  have hsent : s3.faultSig = s2.faultSig := (transmitFrame_changesOnly hsend).parts .faultSig (by simp)
  have hchecked : s4.faultSig = false :=
    faultcheck_faultSig hcheck (hsent.trans (hpacked.trans (hpolled.trans hs)))
  exact hchecked

/-! ## Idle lines over an instruction -/

/-- R28, R246: every operation but a micro-operation ends with the lines idle. -/
theorem exec_keeps_idleLines {i : Instr} (hmicro : isMicro i = false) (h : exec i s = .next t) (hs : idleLines s) :
    idleLines t := by
  obtain ⟨hcsn, hce, hatt, hsig⟩ := hs
  have hc : ChangesOwned i s t := exec_changesOwned h
  refine ⟨?_, ?_, ?_, ?_⟩
  · by_contra hne
    have howner : i = .csnEnable ∨ i = .csnDisable := hc.owner .csn fun he => hne (Eq.trans he hcsn)
    rcases howner with rfl | rfl <;> cases hmicro
  · by_contra hne
    have howner : i = .ceHigh ∨ i = .ceLow := hc.owner .ce fun he => hne (Eq.trans he hce)
    rcases howner with rfl | rfl <;> cases hmicro
  · by_contra hne
    have howner : i = .attAssert ∨ i = .attRelease := hc.owner .att fun he => hne (Eq.trans he hatt)
    rcases howner with rfl | rfl <;> cases hmicro
  · by_contra hne
    have howner : i = .faultOn ∨ i = .faultOff ∨ i = .faultcheck ∨ i = .cycle ∨ ∃ b, i = .statusByte b :=
      hc.owner .faultSig fun he => hne (Eq.trans he hsig)
    rcases howner with rfl | rfl | rfl | rfl | ⟨b, rfl⟩
    · cases hmicro
    · cases hmicro
    · exact hne (faultcheck_faultSig (outcomeOfResult_eq_next.1 h) hsig)
    · exact hne (cycle_faultSig (outcomeOfResult_eq_next.1 h) hsig)
    · exact hne (faultcheck_faultSig (outcomeOfResult_eq_next.1 h) hsig)

/-! ## No step runs a micro-operation by itself (R87) -/

theorem noOperands_not_micro {i j : Instr} {ops : List Byte} (hi : isMicro i = false)
    (h : noOperands i ops = .ok j) : isMicro j = false := by
  unfold noOperands at h
  split at h <;> cases h
  exact hi

theorem decodeOpsel_not_micro {bytes : List Byte} {i : Instr} (h : decodeOpsel bytes = .ok i) : isMicro i = false := by
  unfold decodeOpsel at h
  split at h
  next => cases h
  next code ops =>
    split at h
    case h_1 | h_2 =>
      split at h <;> cases h
      rfl
    case h_7 | h_8 | h_16 =>
      cases h
      rfl
    case h_17 => cases h
    all_goals exact noOperands_not_micro rfl h

theorem decodeRadio_not_micro {P : Config} {bytes : List Byte} {i : Instr} (h : decodeRadio P bytes = .ok i) :
    isMicro i = false := by
  unfold decodeRadio at h
  split at h
  next => cases h
  next c data =>
    split at h <;> split at h <;> cases h <;> rfl

theorem padInstr_not_micro {k : Nat} {i : Instr} (h : padInstr k = some i) : isMicro i = false := by
  unfold padInstr at h
  split at h <;> cases h <;> rfl

theorem decodePad_not_micro {k : Nat} {bytes : List Byte} {i : Instr} (h : decodePad k bytes = .ok i) :
    isMicro i = false := by
  unfold decodePad at h
  split at h
  next =>
    split at h
    next hk =>
      split at h <;> cases h
      exact padInstr_not_micro hk
    next => cases h
  next => cases h

theorem decodeTframe_not_micro {bytes : List Byte} {i : Instr} (h : decodeTframe bytes = .ok i) :
    isMicro i = false := by
  unfold decodeTframe at h
  split at h
  next => split at h <;> cases h; rfl
  next => cases h

theorem decodeStatus_not_micro {bytes : List Byte} {i : Instr} (h : decodeStatus bytes = .ok i) :
    isMicro i = false := by
  unfold decodeStatus at h
  split at h <;> cases h
  rfl

theorem decode_not_micro {P : Config} {r : Request} {i : Instr} (h : decode P r = .ok i) : isMicro i = false := by
  unfold decode at h
  split at h
  · exact decodeOpsel_not_micro h
  · exact decodeRadio_not_micro h
  · exact decodePad_not_micro h
  · exact decodeTframe_not_micro h
  · exact decodeStatus_not_micro h

theorem fetch_not_micro {i : Instr} (h : fetch s = (.run i, t)) : isMicro i = false := by
  unfold fetch at h
  split at h
  next => cases h
  next =>
    split at h <;> cases h
    next hdecode => exact decode_not_micro hdecode
  next =>
    cases h
    cases s.seq <;> rfl

/-! ## The step -/

/-- R28: every step from idle lines ends with idle lines. -/
theorem step_keeps_idleLines (h : step s = .next t) (hs : idleLines s) : idleLines t := by
  rcases step_eq_next h with ⟨s1, -, rfl⟩ | ⟨i, s1, hfetch, hexec⟩
  · exact ⟨rfl, rfl, rfl, rfl⟩
  · have hmicro : isMicro i = false := fetch_not_micro hfetch
    obtain ⟨rest, rfl⟩ := fetch_eq_run hfetch
    exact exec_keeps_idleLines hmicro hexec hs

/-- R208: no act leaves the loop. -/
theorem Act.keeps_loop (h : Act s t) (hs : s.seq = .loop) : t.seq = .loop := by
  cases h with
  | enterLoop => rfl
  | _ => exact hs

/-- R209, R246: every step but the reset input stays in the loop. -/
theorem step_keeps_loop (h : step s = .next t) (hreset : s.inputs.head? ≠ some .reset) (hs : s.seq = .loop) :
    t.seq = .loop := by
  rcases step_eq_next h with ⟨s1, hfetch, -⟩ | ⟨i, s1, hfetch, hexec⟩
  · obtain ⟨rest, hin, -⟩ := fetch_eq_reset hfetch
    exact absurd (by simp [hin]) hreset
  · obtain ⟨rest, rfl⟩ := fetch_eq_run hfetch
    exact exec_keeps (p := fun u => u.seq = .loop) Act.keeps_loop hexec hs

/-- Settles O10: a step runs whole operations, which close every bracket they open; and none takes back `init_done`, the
configuration or the place in the loop. -/
theorem stepKeepsTheLinesIdle : Obligations.StepKeepsTheLinesIdle := by
  refine ⟨fun s t hidle h => step_keeps_idleLines h hidle, fun s t hP hready hseq hreset h => ?_⟩
  obtain ⟨hidle, hdone, hrole⟩ := hready
  obtain ⟨hcfg, hkeeps⟩ := initDoneIsNeverCleared s t h
  exact ⟨hcfg ▸ hP, ⟨step_keeps_idleLines h hidle, hkeeps hreset hdone, hcfg ▸ hrole⟩,
    step_keeps_loop h hreset hseq⟩

end Sys2Proof.Invariants
end

section
/-! SUPPORT. The payload read (R52, R74, R165): what it does to RADIO and which bytes it returns, while the enable line is
low and nothing is in flight; and the statement about R_RX_PAYLOAD. Then the state after reset. -/

namespace Sys2Proof.Invariants

open Sys2Proof.Machine Sys2Proof.Safety Sys2Proof.Scope

variable {s : State}

/-! ## RADIO in a payload read -/

/-- A payload read of five bytes takes the head of the receive queue (R52). -/
theorem transactionEffect_payloadRead {P : Config} {c : Byte} {data : List Byte} {r : Radio} (n : Nat)
    (hc : classify P c = .payloadRead) (hlen : data.length = payloadWidth) (hbusy : r.startedBusy = false) :
    transactionEffect P n c data r = { r with rxq := r.rxq.tail } := by
  simp [transactionEffect, hc, hlen, hbusy]

/-- The data bytes of a payload read are those of the head of the queue, in order (R52). -/
theorem radioAnswer_payloadRead {P : Config} {c : Byte} {data : List Byte} {r : Radio} {p : Bytes5}
    {ps : List Bytes5} (draw : Byte) (hc : classify P c = .payloadRead) (hsent : r.sent = c :: data)
    (hbusy : r.startedBusy = false) (hq : r.rxq = p :: ps) :
    radioAnswer P r draw = p.toList[data.length]?.getD draw := by
  simp [radioAnswer, hsent, hc, hbusy, hq]

theorem waitFor_quiet_radio (T : TimeParam) (hq : quiet s) : (waitFor T s).radio = s.radio := by
  obtain ⟨hce, hair⟩ := hq
  rw [waitFor_radio, hce]
  exact foldl_radioAct_quiet _ _ _ hair

/-- A quiet RADIO after one more byte of its transaction: the same, the byte seen (R48). -/
theorem exchange_quiet_radio (T : TimeParam) (tx : Byte) (hcsn : s.csn = false) (hq : quiet s) :
    (exchange tx (waitFor T s)).radio = { s.radio with sent := s.radio.sent ++ [tx] } :=
  exchangeState_quiet T [tx] s hcsn hq.1 hq.2

theorem driveCsnLow_quiet_radio (hq : quiet s) :
    (driveCsnLow s).radio = { s.radio with sent := [], startedBusy := false } := by
  obtain ⟨hce, hair⟩ := hq
  rw [driveCsnLow_radio, hce, foldl_radioAct_quiet]
  · simp [radioSelect, hair]
  · simpa [radioSelect] using hair

/-- `k` data bytes into a payload read, RADIO quiet and the payload `p` at the head of its receive queue. -/
structure ReadingHead (p : Bytes5) (k : Nat) (s : State) : Prop where
  selected : s.csn = false
  quiet : quiet s
  sent : ∃ c data, s.radio.sent = c :: data ∧ classify s.cfg c = .payloadRead ∧ data.length = k
  notBusy : s.radio.startedBusy = false
  head : ∃ ps, s.radio.rxq = p :: ps

/-- The next byte received is the next one of the payload (R52). -/
theorem ReadingHead.receivedByte_eq {p : Bytes5} {k : Nat} (h : ReadingHead p k s) (T : TimeParam)
    (hk : k < p.toList.length) : receivedByte (waitFor T s) = p.toList[k] := by
  obtain ⟨c, data, hsent, hc, rfl⟩ := h.sent
  obtain ⟨ps, hhead⟩ := h.head
  have hradio : (waitFor T s).radio = s.radio := waitFor_quiet_radio T h.quiet
  simp only [receivedByte, waitFor_csn, h.selected, waitFor_cfg, hradio, Bool.false_eq_true, if_false]
  rw [radioAnswer_payloadRead _ hc hsent h.notBusy hhead, List.getElem?_eq_getElem hk]
  rfl

theorem ReadingHead.exchange {p : Bytes5} {k : Nat} (h : ReadingHead p k s) (T : TimeParam) (tx : Byte) :
    ReadingHead p (k + 1) (exchange tx (waitFor T s)) := by
  have hradio := exchange_quiet_radio T tx h.selected h.quiet
  obtain ⟨c, data, hsent, hc, hlen⟩ := h.sent
  refine ⟨h.selected, ⟨h.quiet.1, ?_⟩, ⟨c, data ++ [tx], ?_, hc, by simp [hlen]⟩, ?_, ?_⟩ <;> rw [hradio]
  · exact h.quiet.2
  · rw [hsent]
    rfl
  · exact h.notBusy
  · exact h.head

/-- The bytes exchanged up to the last are those of the payload that are still to come. -/
theorem ReadingHead.exchangeBytes_eq {p : Bytes5} (T : TimeParam) (txs : List Byte) :
    ∀ {k : Nat} {s : State}, ReadingHead p k s → k + txs.length = 5 → exchangeBytes T txs s = p.toList.drop k := by
  induction txs with
  | nil =>
    intro k s _ hlen
    exact (List.drop_eq_nil_of_le (by simpa using hlen.ge)).symm
  | cons tx txs ih =>
    intro k s h hlen
    rw [List.length_cons] at hlen
    have hk : k < p.toList.length := by
      rw [toList_length]
      omega
    rw [exchangeBytes_cons, h.receivedByte_eq T hk, ih (h.exchange T tx) (by omega)]
    exact (List.drop_eq_getElem_cons hk).symm

/-! ## R_RX_PAYLOAD -/

section PayloadRead
variable {c : Byte} (hc : classify s.cfg c = .payloadRead) (hq : quiet s)
include hc hq

/-- After its first byte a payload read stands before the head of the queue. -/
theorem readingHead_start {p : Bytes5} {ps : List Bytes5} (hhead : s.radio.rxq = p :: ps) (T : TimeParam) :
    ReadingHead p 0 (exchange c (waitFor T (driveCsnLow s))) := by
  have hlow := driveCsnLow_quiet_radio hq
  have hqlow : quiet (driveCsnLow s) := ⟨hq.1, by rw [hlow]; exact hq.2⟩
  have hradio := exchange_quiet_radio T c (driveCsnLow_csn s) hqlow
  rw [hlow] at hradio
  refine ⟨rfl, ⟨hq.1, ?_⟩, ⟨c, [], ?_, hc, rfl⟩, ?_, ⟨ps, ?_⟩⟩ <;> rw [hradio]
  · exact hq.2
  · rfl
  · exact hhead

/-- R52: the head of the receive queue is what a payload read returns after its first byte. -/
theorem xactBytes_payloadRead {p : Bytes5} {ps : List Bytes5} (hhead : s.radio.rxq = p :: ps) :
    (xactBytes c (.inp 5) s).tail = p.toList :=
  (readingHead_start hc hq hhead .tSettle).exchangeBytes_eq .tSettle (List.replicate 5 s.cfg.radioNop) rfl

/-- R52: a payload read removes the head of the receive queue and does nothing else to RADIO. -/
theorem xactState_payloadRead :
    (xactState c (.inp 5) s).radio = { s.radio with rxq := s.radio.rxq.tail, sent := [], startedBusy := false } := by
  obtain ⟨hce, hair⟩ := hq
  refine xactState_radio c (.inp 5) s hce hair { s.radio with rxq := s.radio.rxq.tail } hair fun n => ?_
  exact transactionEffect_payloadRead n hc (by simp [sentData, payloadWidth]) rfl

end PayloadRead

/-- A payload read receives six bytes: the first, which is discarded (D7), and a payload. -/
theorem xactBytes_payload (c : Byte) (s : State) :
    ∃ r0 q, xactBytes c (.inp 5) s = r0 :: Bytes5.toList q := by
  have hlen : (xactBytes c (.inp 5) s).length = 6 := by simp [XactArg.len]
  match hb : xactBytes c (.inp 5) s, hlen with
  | [r0, b0, b1, b2, b3, b4], _ => exact ⟨r0, ⟨b0, b1, b2, b3, b4⟩, rfl⟩

/-- Settles O45: the transaction of R_RX_PAYLOAD, its five bytes stored where there is a register for them. -/
theorem rRxPayloadTakesTheHead : Obligations.RRxPayloadTakesTheHead := by
  intro s hP hcsn hatt
  have h5 : 5 ≤ s.cfg.nMax := hP.2.2.2.2.2
  have hread : classify s.cfg s.cfg.regRxPayload = .payloadRead := by simpa using classify_payloadRead hP
  obtain ⟨r0, q, hbytes⟩ := xactBytes_payload (readFirst s.cfg.regRxPayload) s
  have hradio : (rxPayloadState s).radio = (xactState (readFirst s.cfg.regRxPayload) (.inp 5) s).radio := rfl
  rw [readFirst_eq] at hbytes hradio
  have hrun : exec .rRxPayload s = .next (rxPayloadState s) :=
    outcomeOfResult_eq_next.2 ((rRxPayload_eq_ok h5).2 ⟨hcsn, hatt, rfl⟩)
  refine ⟨rxPayloadState s, r0, q, hrun, ?_, ?_, ?_, by simp, by simp, by simp, by simp, ?_,
    ⟨by simp [hcsn], by simp, by simp, by simp⟩, ⟨by simp, by simp, by simp, by simp⟩,
    ⟨by simp, by simp, by simp⟩, ?_⟩
  · intro hrole
    simp [rxPayloadState, hrole, hbytes]
  · intro hrole
    simp [rxPayloadState, hrole]
  · rw [rxPayloadState, storeRxp_trace, readFirst_eq, xactState_trace, hbytes]
    rfl
  · rw [rxPayloadState, storeRxp_padK, xactState_padK _ _ _ hatt]
  · intro hq
    rw [xactState_payloadRead hread hq] at hradio
    refine ⟨fun a => by rw [hradio], by rw [hradio], fun p ps hhead => ?_⟩
    have htail := xactBytes_payloadRead hread hq hhead
    rw [hbytes, List.tail_cons] at htail
    have hsome : some q = some p := by rw [← ofList?_toList q, htail, ofList?_toList]
    exact Option.some.inj hsome

/-! ## Reset -/

/-- Settles O1: R30's table, row by row. -/
theorem resetValuesOfTheBlock : Obligations.ResetValuesOfTheBlock :=
  ⟨rfl, rfl, rfl, rfl, rfl, rfl, rfl, rfl, rfl, rfl, rfl, rfl⟩

/-- R27, R28: at reset nothing is selected, no register of RADIO holds a value and no data register does (R30, R47). -/
theorem reset_inv : Inv State.reset :=
  ⟨by simp [State.reset], reset_memory_wf, Nat.zero_le 9, fun _ => rfl, fun _ => rfl⟩

/-- The default set meets the constraints of R5. -/
theorem pGK_wf : Config.pGK.wf := by decide

/-- Settles O2: R27, R28 and R5 at the reset state. -/
theorem resetMeetsTheInvariants : Obligations.ResetMeetsTheInvariants :=
  ⟨reset_inv, ⟨rfl, rfl, rfl, rfl⟩, pGK_wf⟩

end Sys2Proof.Invariants
end

section
/-! SUPPORT. The first byte of a radio bracket is the one of the transaction it is classified as (R48, R71, R89), so that
decoding a bracket loses nothing. -/

namespace Sys2Proof.Brackets

open Sys2Proof.Machine

/-- The first byte of a transaction of each kind (R72 to R74). -/
def firstByte (P : Config) : RadioCmd → Byte
  | .flush => P.cmdFlushTx
  | .payloadWrite => writeFirst P P.regTxPayload
  | .payloadRead => readFirst P.regRxPayload
  | .regWrite a => writeFirst P a
  | .regRead a => readFirst a

/-- A mask of one bit is inside a byte or disjoint from it. -/
theorem and_single_bit : ∀ w ∈ [1#8, 2#8, 4#8, 8#8, 16#8, 32#8, 64#8, 128#8], ∀ c : Byte,
    c &&& w ≠ 0#8 → c &&& w = w := by
  decide +kernel

/-- R71: a byte with the opcode bit is the first byte of a write of the rest of it, the opcode being one bit (R5). -/
theorem writeFirst_without_opcode {P : Config} {x : Byte} (hP : P.wf) (hx : x &&& P.wOpcode ≠ 0#8) :
    writeFirst P (x &&& ~~~P.wOpcode) = x := by
  have hin : x &&& P.wOpcode = P.wOpcode := and_single_bit _ (bitCount_eq_one _ hP.1.1) x hx
  unfold writeFirst
  rw [← hin]
  ext i hi
  simp only [BitVec.getElem_or, BitVec.getElem_and, BitVec.getElem_not]
  cases x[i] <;> simp

/-- R48, R89: the kind of a transaction determines its first byte. -/
theorem firstByte_classify {P : Config} (hP : P.wf) (c : Byte) : firstByte P (classify P c) = c := by
  unfold classify
  split
  next hflush => exact hflush.symm
  next =>
    split
    next hwrite => exact hwrite.symm
    next =>
      split
      next hread => exact hread.symm
      next =>
        split
        next hop => exact writeFirst_without_opcode hP hop
        next => exact readFirst_eq c

/-- Five bytes read from a sequence are that sequence (R42 item 3). -/
theorem ofList?_eq_some {l : List Byte} {p : Bytes5} (h : Bytes5.ofList? l = some p) : p.toList = l := by
  unfold Bytes5.ofList? at h
  split at h
  next =>
    cases h
    rfl
  next => cases h

/-- Settles O5: the encoder writes the first byte of the kind the decoder read, which is the byte read. -/
theorem radioDecodingLosesNoByte : Obligations.RadioDecodingLosesNoByte := by
  intro P c data i hP hdecode
  have hfirst : firstByte P (classify P c) = c := firstByte_classify hP c
  simp only [decode, decodeRadio] at hdecode
  generalize classify P c = k at hdecode hfirst ⊢
  subst hfirst
  cases k with
  | flush =>
    cases data with
    | nil =>
      cases hdecode
      exact ⟨[], rfl, rfl, fun _ => rfl⟩
    | cons d ds => cases hdecode
  | payloadWrite =>
    simp only at hdecode
    split at hdecode
    next p hp =>
      cases hdecode
      obtain rfl : p.toList = data := ofList?_eq_some hp
      exact ⟨p.toList, rfl, rfl, fun _ => rfl⟩
    next => cases hdecode
  | payloadRead =>
    simp only at hdecode
    split at hdecode
    next hlen =>
      cases hdecode
      exact ⟨List.replicate payloadWidth P.radioNop, rfl, by simp [hlen], by simp⟩
    next => cases hdecode
  | regWrite a =>
    cases data with
    | nil => cases hdecode
    | cons d ds =>
      cases hdecode
      exact ⟨d :: ds, rfl, rfl, fun _ => rfl⟩
  | regRead a =>
    cases data with
    | nil => cases hdecode
    | cons d ds =>
      cases hdecode
      exact ⟨List.replicate (ds.length + 1) P.radioNop, rfl, by simp, by simp⟩

end Sys2Proof.Brackets
end

section
/-! SUPPORT. RADIO by itself: what each transaction makes of it (R48 to R52), which flags stay set (R53), what it does
between two events (R53, R54); and the statements about a single `Csn(1)`, a single `Ce(1)` and a single gap. -/

namespace Sys2Proof.Device

open Sys2Proof.Machine Sys2Proof.Safety

variable {P : Config} {r r' r'' : Radio} {s : State}

/-! ## Widths (R41) -/

theorem regWidth_eq_some {a : Byte} {w : Nat} (h : regWidth P a = some w) : w = 1 ∨ w = 5 := by
  unfold regWidth at h
  split at h
  · exact .inr (Option.some.inj h).symm
  · split at h
    · exact .inl (Option.some.inj h).symm
    · cases h

theorem regWidth_regStatus (hP : P.wf) : regWidth P P.regStatus = some 1 := by
  obtain ⟨-, hrx, -⟩ := initWrites_allowed hP (P.regRxAddr, P.rxAddr.toList) (by simp [initWrites])
  obtain ⟨-, htx, -⟩ := initWrites_allowed hP (P.regTxAddr, P.txAddr.toList) (by simp [initWrites])
  exact regWidth_one hrx.symm htx.symm (by simp)

theorem regStatus_mem (P : Config) : P.regStatus ∈ P.mapRegisters := by simp [Config.mapRegisters]

/-- The data of a register's width are not empty and no more than a transaction may carry (R5). -/
theorem width_bounds {a : Byte} {data : List Byte} (hP : P.wf) (hw : regWidth P a = some data.length) :
    data ≠ [] ∧ data.length ≤ P.nMax := by
  have h5 : 5 ≤ P.nMax := hP.2.2.2.2.2
  refine ⟨?_, ?_⟩
  · rintro rfl
    rcases regWidth_eq_some hw with h | h <;> cases h
  · rcases regWidth_eq_some hw with h | h <;> omega

/-! ## The effect of a transaction, kind by kind (R49 to R52) -/

theorem transactionEffect_regWrite {a : Byte} {data : List Byte} (n : Nat) (hP : P.wf) (ha : a ∈ P.mapRegisters)
    (hst : a ≠ P.regStatus) (hw : regWidth P a = some data.length) (hbusy : r.startedBusy = false) :
    transactionEffect P n (writeFirst P a) data r = { r with rreg := Memory.write r.rreg a.toNat data } := by
  simp [transactionEffect, hbusy, classify_map_write hP ha, registerWrite, hst, hw]

theorem transactionEffect_statusWrite (n : Nat) (v : Byte) (hP : P.wf) (hbusy : r.startedBusy = false) :
    transactionEffect P n (writeFirst P P.regStatus) [v] r = clearFlags P v r := by
  simp [transactionEffect, hbusy, classify_map_write hP (regStatus_mem P), registerWrite]

/-- The status reset has its effect even with an attempt pending (R55). -/
theorem transactionEffect_statusReset (n : Nat) (hP : P.wf) (r : Radio) :
    transactionEffect P n (writeFirst P P.regStatus) [P.statusIrqMask] r = clearFlags P P.statusIrqMask r := by
  simp [transactionEffect, isFaultcheckXact, classify_map_write hP (regStatus_mem P), registerWrite]

theorem transactionEffect_regRead {a : Byte} {data : List Byte} (n : Nat) (hP : P.wf) (ha : a ∈ P.mapRegisters)
    (hw : regWidth P a = some data.length) (hbusy : r.startedBusy = false) :
    transactionEffect P n (readFirst a) data r = r := by
  simp only [transactionEffect, hbusy, classify_map_read hP ha, registerRead, hw, Bool.false_and, Bool.false_eq_true,
    if_false, if_true]

/-- The status read changes nothing even with an attempt pending (R55). -/
theorem transactionEffect_statusRead {data : List Byte} (n : Nat) (hP : P.wf) (hlen : data.length = 1) (r : Radio) :
    transactionEffect P n (readFirst P.regStatus) data r = r := by
  simp only [transactionEffect, isFaultcheckXact, classify_map_read hP (regStatus_mem P), registerRead,
    regWidth_regStatus hP, hlen, beq_self_eq_true, Bool.and_self, Bool.not_true, Bool.and_false, Bool.false_eq_true,
    if_false, if_true]

theorem transactionEffect_flush (n : Nat) (hbusy : r.startedBusy = false) :
    transactionEffect P n P.cmdFlushTx [] r = { r with txq := [] } := by
  simp [transactionEffect, hbusy, classify_flush]

theorem transactionEffect_payloadWrite (n : Nat) (p : Bytes5) (hP : P.wf) (hbusy : r.startedBusy = false) :
    transactionEffect P n (writeFirst P P.regTxPayload) p.toList r = { r with txq := r.txq ++ [p] } := by
  simp [transactionEffect, hbusy, classify_payloadWrite hP]

theorem radioDeselect_of_sent {c : Byte} {data : List Byte} (P : Config) (n : Nat) (hs : r.sent = c :: data) :
    radioDeselect P n r = { transactionEffect P n c data r with sent := [], startedBusy := false } := by
  simp [radioDeselect, hs]

/-! ## Flags that are set stay set (R53) -/

/-- No flag that is set is cleared from one RADIO state to the other. -/
abbrev FlagsKept (r r' : Radio) : Prop :=
  (r.maxRt = true → r'.maxRt = true) ∧ (r.f2 = true → r'.f2 = true) ∧ (r.f3 = true → r'.f3 = true)

theorem FlagsKept.refl (r : Radio) : FlagsKept r r := ⟨id, id, id⟩

theorem FlagsKept.trans (h : FlagsKept r r') (h' : FlagsKept r' r'') : FlagsKept r r'' := by
  obtain ⟨hmax, hf2, hf3⟩ := h
  obtain ⟨hmax', hf2', hf3'⟩ := h'
  exact ⟨hmax' ∘ hmax, hf2' ∘ hf2, hf3' ∘ hf3⟩

/-- Whatever RADIO does by itself only sets flags. -/
theorem radioAct_flagsKept (P : Config) (ce : Bool) (r : Radio) (act : EnvAction) :
    FlagsKept r (radioAct P ce r act) := by
  have hor : ∀ c d : Bool, c = true → (c || d) = true := fun _ _ hc => by rw [hc, Bool.true_or]
  unfold radioAct
  split
  next =>
    split
    · exact ⟨id, hor _ _, hor _ _⟩
    · exact .refl r
  next =>
    split
    · exact ⟨fun _ => rfl, id, id⟩
    · exact .refl r
  next =>
    split
    · exact ⟨id, hor _ _, hor _ _⟩
    · exact .refl r

theorem foldl_radioAct_flagsKept (P : Config) (ce : Bool) (acts : List EnvAction) :
    ∀ r : Radio, FlagsKept r (acts.foldl (radioAct P ce) r) := by
  induction acts with
  | nil => exact FlagsKept.refl
  | cons act acts ih => exact fun r => (radioAct_flagsKept P ce r act).trans (ih _)

/-- An event that leaves the flags alone, and the gap after it. -/
theorem emit_flagsKept (e : Event) (h : FlagsKept r s.radio) : FlagsKept r (emit e s).radio :=
  h.trans (foldl_radioAct_flagsKept _ _ _ _)

/-- Every micro-operation but CSN_DISABLE and CE_HIGH leaves the flags to RADIO. -/
theorem micro_flagsKept {i : Instr} {t : State} (hi : isMicro i = true) (hcsn : i ≠ .csnDisable) (hce : i ≠ .ceHigh)
    (h : exec i s = .next t) : FlagsKept s.radio t.radio := by
  have hself : FlagsKept s.radio s.radio := .refl _
  cases i with
  | csnDisable => exact absurd rfl hcsn
  | ceHigh => exact absurd rfl hce
  | xfer tx =>
    obtain ⟨bytes, u, hx, rfl⟩ := outcomeOfReturn_eq_next.1 h
    obtain ⟨⟨rx, v⟩, hxfer, hv⟩ := map_eq_ok.1 hx
    cases hv
    obtain ⟨-, -, rfl⟩ := xfer_eq_ok.1 hxfer
    refine emit_flagsKept _ ?_
    cases hsel : s.csn <;> simpa [hsel] using hself
  | wait T =>
    cases h
    exact emit_flagsKept _ hself
  | csnEnable =>
    obtain ⟨-, -, rfl⟩ := csnEnable_eq_ok.1 (outcomeOfResult_eq_next.1 h)
    exact emit_flagsKept _ hself
  | ceLow =>
    obtain ⟨-, rfl⟩ := ceLow_eq_ok.1 (outcomeOfResult_eq_next.1 h)
    exact emit_flagsKept _ hself
  | attAssert =>
    obtain ⟨-, -, rfl⟩ := attAssert_eq_ok.1 (outcomeOfResult_eq_next.1 h)
    exact emit_flagsKept _ hself
  | attRelease =>
    obtain ⟨-, rfl⟩ := attRelease_eq_ok.1 (outcomeOfResult_eq_next.1 h)
    exact emit_flagsKept _ hself
  | faultOn =>
    cases h
    exact emit_flagsKept _ hself
  | faultOff =>
    cases h
    exact emit_flagsKept _ hself
  | _ => cases hi

/-! ## One `Csn(1)` (R60) -/

theorem driveCsnHigh_rreg {c : Byte} {data : List Byte} (hs : s.radio.sent = c :: data) :
    (driveCsnHigh s).radio.rreg = (transactionEffect s.cfg s.envDraws c data s.radio).rreg := by
  rw [driveCsnHigh_radio, foldl_radioAct_rreg, radioDeselect_of_sent _ _ hs]

theorem driveCsnHigh_flagsKept {c : Byte} {data : List Byte} (hs : s.radio.sent = c :: data)
    (h : FlagsKept s.radio (transactionEffect s.cfg s.envDraws c data s.radio)) :
    FlagsKept s.radio (driveCsnHigh s).radio := by
  refine emit_flagsKept _ ?_
  rw [radioDeselect_of_sent _ _ hs]
  exact h

/-- Settles O22: the three transactions, each by its effect. -/
theorem registerWriteLandsAtDeselect : Obligations.RegisterWriteLandsAtDeselect := by
  intro s a data hP hcsn hbusy ha hw
  refine ⟨driveCsnHigh s, outcomeOfResult_eq_next.2 (csnDisable_eq_ok.2 ⟨hcsn, rfl⟩), ?_, ?_, ?_⟩
  · intro hs hst
    have heffect := transactionEffect_regWrite s.envDraws hP ha hst hw hbusy
    have hrreg := driveCsnHigh_rreg hs
    rw [heffect] at hrreg
    refine ⟨?_, fun b hb => ?_, driveCsnHigh_flagsKept hs (by rw [heffect]; exact .refl _)⟩
    · rw [hrreg]
      exact Memory.read_write_same _ _ (width_bounds hP hw).1 _
    · rw [hrreg]
      exact Memory.read_write_other _ hb _
  · rintro hs rfl b
    rw [regWidth_regStatus hP, Option.some.injEq, eq_comm, List.length_eq_one_iff] at hw
    obtain ⟨v, rfl⟩ := hw
    rw [driveCsnHigh_rreg hs, transactionEffect_statusWrite _ _ hP hbusy]
    rfl
  · intro hs
    have heffect := transactionEffect_regRead s.envDraws hP ha hw hbusy
    refine ⟨fun b => ?_, driveCsnHigh_flagsKept hs (by rw [heffect]; exact .refl _)⟩
    rw [driveCsnHigh_rreg hs, heffect]

/-! ## One gap (R53, R54) -/

theorem nextActions_of_plan {acts : List EnvAction} (h : s.plan.head? = some acts) : nextActions s = acts := by
  simp [nextActions, h]

/-- An event whose gap is empty leaves RADIO as it is. -/
theorem emit_radio_of_empty_gap (e : Event) (h : s.plan.head? = some []) : (emit e s).radio = s.radio := by
  rw [emit_radio, nextActions_of_plan h]
  rfl

theorem waitFor_radio_of_plan {act : EnvAction} (T : TimeParam) (h : s.plan.head? = some [act]) :
    (waitFor T s).radio = radioAct s.cfg s.ce s.radio act := by
  rw [waitFor_radio, nextActions_of_plan h]
  rfl

theorem radioAct_acknowledged {ce b : Bool} (ha : r.air = .pending) :
    radioAct P ce r (.acknowledged b) =
      { r with air := .idle, txq := r.txq.tail, f2 := r.f2 || b, f3 := r.f3 || !b } := by
  simp [radioAct, ha]

theorem radioAct_maxRetries {ce : Bool} (ha : r.air = .pending) :
    radioAct P ce r .maxRetries = { r with air := .idle, maxRt := true } := by
  simp [radioAct, ha]

/-- With nothing pending only an arrival can happen (R53). -/
theorem radioAct_idle {ce : Bool} {act : EnvAction} (ha : r.air = .idle) (hact : ∀ p b, act ≠ .arrived p b) :
    radioAct P ce r act = r := by
  cases act with
  | acknowledged b => simp [radioAct, ha]
  | maxRetries => simp [radioAct, ha]
  | arrived p b => exact absurd rfl (hact p b)

/-- R54: the receiver listens. -/
theorem mayListen_of_selectsRx (h : selectsRx P r = true) : mayListen P r = true := by simp [mayListen, h]

/-- R53, R54: the transmitter does not listen. -/
theorem mayListen_of_selectsTx (h : selectsTx P r = true) : mayListen P r = false := by
  unfold selectsTx at h
  split at h
  next v hv =>
    have hrole : v &&& P.primRxMask = 0#8 := by simpa using h
    simp [mayListen, selectsRx, hv, hrole]
  next => cases h

theorem radioAct_arrived_listening {p : Bytes5} {b : Bool} (h : selectsRx P r = true) :
    radioAct P true r (.arrived p b) =
      { r with rxq := r.rxq ++ [p], f2 := r.f2 || b, f3 := r.f3 || !b } := by
  simp [radioAct, mayListen_of_selectsRx h]

theorem radioAct_arrived_deaf {p : Bytes5} {b ce : Bool} (h : ce = false ∨ selectsTx P r = true) :
    radioAct P ce r (.arrived p b) = r := by
  rcases h with rfl | h
  · simp [radioAct]
  · simp [radioAct, mayListen_of_selectsTx h]

/-! ## One `Ce(1)` (R53) -/

/-- A `Ce(1)` that starts an attempt or listening leaves the flags alone. -/
theorem radioEnable_flagsKept (n : Nat) (hwork : hasWork P r = true) (hmax : r.maxRt = false) (hair : r.air = .idle) :
    FlagsKept r (radioEnable P n r) := by
  rw [radioEnable_of_work n hwork hmax hair]
  split <;> exact .refl _

/-- Settles O25: what one action does to RADIO, action by action; and every event but `Csn(1)` and `Ce(1)` leaves the
flags to RADIO, which only sets them. -/
theorem radioResolvesAttemptsAndKeepsItsFlags : Obligations.RadioResolvesAttemptsAndKeepsItsFlags := by
  refine ⟨fun T act s hplan => ?_, fun i s t hi hcsn hce h => micro_flagsKept hi hcsn hce h,
    fun s t hstart hrole hmax hair h => ?_⟩
  · have hradio := waitFor_radio_of_plan T hplan
    refine ⟨waitFor T s, rfl, fun hair => ⟨?_, ?_⟩, fun hair hact => ?_, ?_⟩
    · rintro b rfl
      rw [hradio, radioAct_acknowledged hair]
    · rintro rfl
      rw [hradio, radioAct_maxRetries hair]
    · rw [hradio, radioAct_idle hair hact]
    · rintro p b rfl
      refine ⟨fun hce hrx => ?_, fun hdeaf => ?_⟩
      · rw [hradio, hce, radioAct_arrived_listening hrx]
      · rw [hradio, radioAct_arrived_deaf hdeaf]
  · obtain ⟨-, -, rfl⟩ := ceHigh_eq_ok.1 (outcomeOfResult_eq_next.1 h)
    exact emit_flagsKept _ (radioEnable_flagsKept _ (hasWork_eq.2 ⟨hstart, hrole⟩) hmax hair)

/-- Settles O24: RADIO has work, so `Ce(1)` starts the attempt, and the gap after it is empty. -/
theorem ceHighStartsAnAttempt : Obligations.CeHighStartsAnAttempt := by
  intro s hce hcsn hstart htx hq hmax hair hplan
  refine ⟨ceHighState s, outcomeOfResult_eq_next.2 (ceHigh_eq_ok.2 ⟨hce, hcsn, rfl⟩), ?_⟩
  have hwork : hasWork s.cfg s.radio = true := hasWork_eq.2 ⟨hstart, .inr ⟨htx, hq⟩⟩
  have henable : radioEnable s.cfg s.envDraws s.radio = { s.radio with air := .pending } := by
    rw [radioEnable_of_work _ hwork hmax hair, if_pos htx]
  refine (emit_radio_of_empty_gap _ ?_).trans henable
  exact hplan

end Sys2Proof.Device
end

section
/-! SUPPORT. A whole transaction (R120): what it leaves of the block, what it makes of a quiet RADIO (R49 to R52) and
which bytes a quiet RADIO returns (R51); and the statements about register transfers, payloads and their wire rows. -/

namespace Sys2Proof.Device

open Sys2Proof.Machine Sys2Proof.Safety Sys2Proof.Invariants

variable {s : State} {a : Byte} {data : List Byte}

/-! ## What a transaction leaves of the block (R28, R110) -/

theorem xactState_sameLines (first : Byte) (arg : XactArg) (hcsn : s.csn = true) :
    sameLines s (xactState first arg s) :=
  ⟨by simp [hcsn], by simp, by simp, by simp⟩

theorem xactState_microFrame (first : Byte) (arg : XactArg) (s : State) : microFrame s (xactState first arg s) :=
  ⟨⟨by simp, by simp, by simp, by simp⟩, ⟨by simp, by simp, by simp, by simp⟩, by simp, by simp, by simp⟩

/-! ## A quiet RADIO after a transaction, kind by kind -/

/-- RADIO between transactions has seen no byte of one and was not busy at its start (R48). -/
theorem deselected_eq {r : Radio} (hsent : r.sent = []) (hbusy : r.startedBusy = false) :
    { r with sent := [], startedBusy := false } = r := by
  rw [← hsent, ← hbusy]

/-- R49: the register holds the data. -/
theorem xactState_regWrite (hP : s.cfg.wf) (hq : quiet s) (ha : a ∈ s.cfg.mapRegisters) (hst : a ≠ s.cfg.regStatus)
    (hw : regWidth s.cfg a = some data.length) :
    (xactState (writeFirst s.cfg a) (.out data) s).radio =
      { s.radio with rreg := Memory.write s.radio.rreg a.toNat data, sent := [], startedBusy := false } :=
  xactState_radio _ _ s hq.1 hq.2 { s.radio with rreg := Memory.write s.radio.rreg a.toNat data } hq.2
    fun n => transactionEffect_regWrite n hP ha hst hw rfl

/-- R50: the flags named in the byte are cleared. -/
theorem xactState_statusWrite (hP : s.cfg.wf) (hq : quiet s) (v : Byte) :
    (xactState (writeFirst s.cfg s.cfg.regStatus) (.out [v]) s).radio =
      { clearFlags s.cfg v s.radio with sent := [], startedBusy := false } :=
  xactState_radio _ _ s hq.1 hq.2 (clearFlags s.cfg v s.radio) hq.2
    fun n => transactionEffect_statusWrite n v hP rfl

/-- R50, R51: a read of the register's width changes nothing. -/
theorem xactState_regRead {n : Nat} (hP : s.cfg.wf) (hq : quiet s) (ha : a ∈ s.cfg.mapRegisters)
    (hw : regWidth s.cfg a = some n) :
    (xactState (readFirst a) (.inp n) s).radio = { s.radio with sent := [], startedBusy := false } :=
  xactState_radio _ _ s hq.1 hq.2 s.radio hq.2
    fun k => transactionEffect_regRead k hP ha (by simpa [sentData] using hw) rfl

/-- R52: the transmit queue is empty. -/
theorem xactState_flush (hq : quiet s) :
    (xactState s.cfg.cmdFlushTx (.out []) s).radio = { s.radio with txq := [], sent := [], startedBusy := false } :=
  xactState_radio _ _ s hq.1 hq.2 { s.radio with txq := [] } hq.2 fun n => transactionEffect_flush n rfl

/-- R52: the payload is the last of the transmit queue. -/
theorem xactState_payloadWrite (hP : s.cfg.wf) (hq : quiet s) (p : Bytes5) :
    (xactState (writeFirst s.cfg s.cfg.regTxPayload) (.out p.toList) s).radio =
      { s.radio with txq := s.radio.txq ++ [p], sent := [], startedBusy := false } :=
  xactState_radio _ _ s hq.1 hq.2 { s.radio with txq := s.radio.txq ++ [p] } hq.2
    fun n => transactionEffect_payloadWrite n p hP rfl

/-! ## REG_WRITE (R121) -/

theorem exec_regWrite (hcsn : s.csn = true) (hatt : s.att = false)
    (ha : addressAllowed s.cfg s.cfg.regTxPayload a = true) (hlen : data.length ≤ s.cfg.nMax) :
    exec (.regWrite a data) s = .next (xactState (writeFirst s.cfg a) (.out data) s) :=
  outcomeOfResult_eq_next.2 (regWrite_eq_ok.2 ⟨ha, hlen, hcsn, hatt, rfl⟩)

/-- After a write at its width the register reads as the data and every other as before (R49). -/
theorem xactState_regWrite_read (hP : s.cfg.wf) (hq : quiet s) (ha : a ∈ s.cfg.mapRegisters)
    (hst : a ≠ s.cfg.regStatus) (hw : regWidth s.cfg a = some data.length) :
    Memory.read (xactState (writeFirst s.cfg a) (.out data) s).radio.rreg a.toNat = some data ∧
      ∀ b, b ≠ a.toNat → Memory.read (xactState (writeFirst s.cfg a) (.out data) s).radio.rreg b =
        Memory.read s.radio.rreg b := by
  rw [xactState_regWrite hP hq ha hst hw]
  exact ⟨Memory.read_write_same _ _ (width_bounds hP hw).1 _, fun b hb => Memory.read_write_other _ hb _⟩

/-- Settles O33: the transaction of REG_WRITE writes the map and nothing else of RADIO. -/
theorem regWriteIsHeldByTheRadio : Obligations.RegWriteIsHeldByTheRadio := by
  intro a data s hP hcsn hatt hq ha hst hw
  obtain ⟨hheld, hother⟩ := xactState_regWrite_read hP hq ha hst hw
  refine ⟨_, exec_regWrite hcsn hatt (addressAllowed_map hP ha _) (width_bounds hP hw).2, hheld, hother, ?_⟩
  rw [xactState_regWrite hP hq ha hst hw]
  exact ⟨rfl, rfl, rfl, rfl, rfl, hq.2⟩

/-! ## The bytes a quiet RADIO returns (R48 to R52) -/

/-- Byte by byte, RADIO answers as it was at the start but for the bytes seen since. -/
theorem exchangeBytes_quiet (T : TimeParam) (txs : List Byte) :
    ∀ s : State, s.csn = false → quiet s →
      exchangeBytes T txs s = (List.range txs.length).map fun k =>
        radioAnswer s.cfg { s.radio with sent := s.radio.sent ++ txs.take k } (answerAt s k) := by
  induction txs with
  | nil => exact fun _ _ _ => rfl
  | cons tx txs ih =>
    intro s hcsn hq
    have hradio := exchange_quiet_radio T tx hcsn hq
    have hqnext : quiet (exchange tx (waitFor T s)) := ⟨hq.1, by rw [hradio]; exact hq.2⟩
    have hcsnnext : (exchange tx (waitFor T s)).csn = false := hcsn
    have hdraws : DrawsAfter 1 s (exchange tx (waitFor T s)) := ⟨by simp, by simp⟩
    have hfirst : receivedByte (waitFor T s) = radioAnswer s.cfg s.radio (answerAt s 0) := by
      simp only [receivedByte, waitFor_csn, hcsn, waitFor_cfg, waitFor_quiet_radio T hq, Bool.false_eq_true, if_false,
        answerAt_zero]
      rfl
    rw [exchangeBytes_cons, hfirst, ih _ hcsnnext hqnext, hradio, List.length_cons,
      List.range_succ_eq_map, List.map_cons, List.map_map]
    congr 1
    · simp
    · apply List.map_congr_left
      intro k _
      simp [answerAt_of_drawsAfter hdraws, Nat.add_comm]

/-- The data bytes of a read of a quiet RADIO (R120). -/
theorem xactBytes_quiet (c : Byte) (n : Nat) (hq : quiet s) :
    (xactBytes c (.inp n) s).tail = (List.range n).map fun k =>
      radioAnswer s.cfg { s.radio with sent := c :: (List.replicate n s.cfg.radioNop).take k, startedBusy := false }
        (answerAt s (k + 1)) := by
  have hlow := driveCsnLow_quiet_radio hq
  have hqlow : quiet (driveCsnLow s) := ⟨hq.1, by rw [hlow]; exact hq.2⟩
  have hdraws : DrawsAfter 0 s (driveCsnLow s) := ⟨by simp, by simp⟩
  rw [xactBytes, exchangeBytes_quiet _ _ _ rfl hqlow, hlow]
  simp [sentData, List.range_succ_eq_map, answerAt_of_drawsAfter hdraws, Function.comp_def]

/-- R51: each byte of a register that holds a value is read as it is held. -/
theorem radioAnswer_held {P : Config} {r : Radio} {bytes sent : List Byte} {k : Nat} (draw : Byte) (hP : P.wf)
    (ha : a ∈ P.mapRegisters) (hst : a ≠ P.regStatus) (hw : regWidth P a = some bytes.length)
    (hheld : Memory.read r.rreg a.toNat = some bytes) (hlen : sent.length = k) (hk : k < bytes.length) :
    radioAnswer P { r with sent := readFirst a :: sent, startedBusy := false } draw = bytes[k] := by
  subst hlen
  simp only [radioAnswer, classify_map_read hP ha, registerByte, hst, hw, hheld, Bool.false_eq_true, if_false,
    List.getElem?_eq_getElem hk, Option.getD_some]

/-- R51: a read at the register's width returns the sequence held. -/
theorem xactBytes_held {bytes : List Byte} (hP : s.cfg.wf) (hq : quiet s) (ha : a ∈ s.cfg.mapRegisters)
    (hst : a ≠ s.cfg.regStatus) (hw : regWidth s.cfg a = some bytes.length)
    (hheld : Memory.read s.radio.rreg a.toNat = some bytes) :
    (xactBytes (readFirst a) (.inp bytes.length) s).tail = bytes := by
  rw [xactBytes_quiet _ _ hq]
  refine List.ext_getElem (by simp) fun k _ hk => ?_
  rw [List.getElem_map, List.getElem_range]
  exact radioAnswer_held _ hP ha hst hw hheld (by simp; omega) hk

/-! ## REG_READ (R122) -/

theorem exec_regRead {n : Nat} (hcsn : s.csn = true) (hatt : s.att = false)
    (ha : addressAllowed s.cfg s.cfg.regRxPayload a = true) (hlen : n ≤ s.cfg.nMax) :
    exec (.regRead a n) s = .next { xactState (readFirst a) (.inp n) s with
      ret := (xactBytes (readFirst a) (.inp n) s).tail } :=
  outcomeOfReturn_eq_next.2 ⟨_, _, regRead_eq_ok.2 ⟨ha, hlen, hcsn, hatt, rfl, rfl⟩, rfl⟩

/-- Settles O35: the bytes of the transaction are those of the register, and RADIO is as before. -/
theorem regReadReturnsTheHeldValue : Obligations.RegReadReturnsTheHeldValue := by
  intro a bytes s hP hcsn hatt hq ha hst hw hheld
  have hradio := xactState_regRead hP hq ha hw
  refine ⟨_, exec_regRead hcsn hatt (addressAllowed_map hP ha _) (width_bounds hP hw).2,
    xactBytes_held hP hq ha hst hw hheld, fun b => ?_, ?_⟩
  · exact congrArg (fun r => Memory.read r.rreg b) hradio
  · simp only [hradio, and_self]

/-! ## The status register (R50, R123, R124) -/

theorem exec_statusReset (hP : s.cfg.wf) (hcsn : s.csn = true) (hatt : s.att = false) :
    exec .statusReset s = .next (statusResetState s) :=
  outcomeOfResult_eq_next.2 ((statusReset_eq_ok hP).2 ⟨hcsn, hatt, rfl⟩)

/-- R50, R123: the status reset clears the three flags and nothing else of RADIO. -/
theorem statusResetState_radio (hP : s.cfg.wf) (hq : quiet s) (hsent : s.radio.sent = [])
    (hbusy : s.radio.startedBusy = false) :
    (statusResetState s).radio = { s.radio with maxRt := false, f2 := false, f3 := false } := by
  rw [statusResetState, xactState_statusWrite hP hq, clearFlags_all hP]
  exact deselected_eq (r := { s.radio with maxRt := false, f2 := false, f3 := false }) hsent hbusy

/-- Settles O37: a status write clears the flags it names; the whole mask names all three. -/
theorem statusResetClearsTheFlags : Obligations.StatusResetClearsTheFlags := by
  intro s hP hcsn hatt hq hsent hbusy
  have hradio := statusResetState_radio hP hq hsent hbusy
  have hP' : (statusResetState s).cfg.wf := by rw [statusResetState_cfg]; exact hP
  have hatt' : (statusResetState s).att = false := by rw [statusResetState_att]; exact hatt
  have hq' : quiet (statusResetState s) := ⟨by rw [statusResetState_ce]; exact hq.1, by rw [hradio]; exact hq.2⟩
  have hagain : (statusResetState (statusResetState s)).radio = (statusResetState s).radio := by
    rw [statusResetState_radio hP' hq' (by rw [hradio]; exact hsent) (by rw [hradio]; exact hbusy), hradio]
  refine ⟨statusResetState s, statusResetState (statusResetState s), exec_statusReset hP hcsn hatt,
    exec_statusReset hP' (statusResetState_csn s) hatt', hradio, hagain, fun v => ?_⟩
  have hwrite : (xactState (writeFirst s.cfg s.cfg.regStatus) (.out [v]) s).radio = clearFlags s.cfg v s.radio := by
    rw [xactState_statusWrite hP hq]
    exact deselected_eq (r := clearFlags s.cfg v s.radio) hsent hbusy
  refine ⟨_, exec_regWrite hcsn hatt (addressAllowed_map hP (regStatus_mem _) _)
    (width_bounds (data := [v]) hP (regWidth_regStatus hP)).2, ?_⟩
  rw [hwrite]
  simp [clearFlags]

theorem exec_statusRead (hP : s.cfg.wf) (hcsn : s.csn = true) (hatt : s.att = false) :
    exec .statusRead s = .next (statusReadState s) :=
  outcomeOfResult_eq_next.2 ((statusRead_eq_ok hP).2 ⟨hcsn, hatt, rfl⟩)

/-- Settles O39: the byte sampled is R50's status byte of RADIO as it was, and RADIO stays so. -/
theorem statusReadSeesMaxRetries : Obligations.StatusReadSeesMaxRetries := by
  intro s hP hcsn hatt hq hsent hbusy
  obtain ⟨r, hsampled, hflags⟩ := sampledStatus_eq hP
  obtain ⟨hmax, hf2, hf3⟩ := hflags hq
  obtain ⟨vmax, vf2, vf3, -⟩ := statusValue_spec hP r (answerAt s 1)
  have hmasks := flagMasks hP
  refine ⟨statusReadState s, statusValue s.cfg r (answerAt s 1), exec_statusRead hP hcsn hatt,
    by rw [statusReadState_st, hsampled], hmax ▸ vmax, hf2 ▸ vf2, hf3 ▸ vf3, hmasks.f2_one, hmasks.f3_one,
    hmasks.union, ?_⟩
  rw [statusReadState_radio, xactState_regRead hP hq (regStatus_mem _) (regWidth_regStatus hP)]
  exact deselected_eq hsent hbusy

end Sys2Proof.Device
end

section
/-! SUPPORT. INIT, the payload operations, FAULTCHECK and the wire rows (spec/30_encoding.md R72 to R84): what each makes
of RADIO and of the trace, and the statements about them. -/

namespace Sys2Proof.Device

open Sys2Proof.Machine Sys2Proof.Safety Sys2Proof.Invariants

variable {s : State} {a : Byte} {data : List Byte}

/-! ## A sequence of register writes (R140) -/

/-- The register map after writing each register in turn (R49). -/
def writeAll (ws : List (Byte × List Byte)) (m : Memory) : Memory :=
  ws.foldl (fun m w => Memory.write m w.1.toNat w.2) m

theorem read_writeAll_other {b : Nat} {ws : List (Byte × List Byte)} :
    ∀ {m : Memory}, (∀ w ∈ ws, b ≠ w.1.toNat) → Memory.read (writeAll ws m) b = Memory.read m b := by
  induction ws with
  | nil => exact fun _ => rfl
  | cons w ws ih =>
    intro m hb
    obtain ⟨hw, hws⟩ := List.forall_mem_cons.1 hb
    exact (ih hws).trans (Memory.read_write_other _ hw m)

/-- With no register written twice each holds what was written to it. -/
theorem read_writeAll_mem {ws : List (Byte × List Byte)} :
    ∀ {m : Memory}, (ws.map Prod.fst).Nodup → (∀ w ∈ ws, w.2 ≠ []) →
      ∀ w ∈ ws, Memory.read (writeAll ws m) w.1.toNat = some w.2 := by
  induction ws with
  | nil => exact fun _ _ _ h => absurd h List.not_mem_nil
  | cons w ws ih =>
    intro m hn hd
    obtain ⟨hnw, hn⟩ := List.nodup_cons.1 hn
    obtain ⟨hdw, hd⟩ := List.forall_mem_cons.1 hd
    have hother : ∀ v ∈ ws, w.1.toNat ≠ v.1.toNat := fun v hv he =>
      hnw (BitVec.eq_of_toNat_eq he ▸ List.mem_map_of_mem hv)
    refine List.forall_mem_cons.2 ⟨?_, ih hn hd⟩
    exact (read_writeAll_other hother).trans (Memory.read_write_same _ _ hdw m)

/-- A sequence of writes, each at its register's width, writes the map of a quiet RADIO; it sends nothing. -/
theorem writesState_radio {ws : List (Byte × List Byte)} :
    ∀ {s : State}, s.cfg.wf → quiet s →
      (∀ w ∈ ws, w.1 ∈ s.cfg.mapRegisters ∧ w.1 ≠ s.cfg.regStatus ∧ regWidth s.cfg w.1 = some w.2.length) →
      (writesState ws s).radio.rreg = writeAll ws s.radio.rreg ∧ (writesState ws s).radio.txq = s.radio.txq ∧
        (writesState ws s).radio.air = .idle := by
  induction ws with
  | nil => exact fun _ hq _ => ⟨rfl, rfl, hq.2⟩
  | cons w ws ih =>
    intro s hP hq hw
    obtain ⟨⟨ha, hst, hwidth⟩, hws⟩ := List.forall_mem_cons.1 hw
    have hradio := xactState_regWrite hP hq ha hst hwidth
    have hcfg : (xactState (writeFirst s.cfg w.1) (.out w.2) s).cfg = s.cfg := xactState_cfg _ _ s
    have hqnext : quiet (xactState (writeFirst s.cfg w.1) (.out w.2) s) :=
      ⟨by rw [xactState_ce]; exact hq.1, by rw [hradio]; exact hq.2⟩
    obtain ⟨hrreg, htxq, hair⟩ := ih (by rw [hcfg]; exact hP) hqnext (by rw [hcfg]; exact hws)
    rw [hradio] at hrreg htxq
    exact ⟨hrreg, htxq, hair⟩

/-! ## INIT (R140 to R153) -/

/-- INIT writes no register twice (R5: the addresses are distinct). -/
theorem initWrites_nodup {P : Config} (hP : P.wf) : ((initWrites P).map Prod.fst).Nodup := by
  have hn : P.mapRegisters.Nodup := hP.1.2.1
  simp only [Config.mapRegisters, List.nodup_cons, List.mem_cons, List.not_mem_nil, or_false, not_or] at hn
  simp only [initWrites, List.map_cons, List.map_nil, List.nodup_cons, List.mem_cons, List.not_mem_nil, or_false,
    not_or]
  grind

/-- The value INIT gives CONFIG starts the chip and selects the configured role, and that role only (R78, R150). -/
theorem role_of_valConfig {P : Config} {r : Radio} (hP : P.wf)
    (h : Memory.read r.rreg P.regConfig.toNat = some [valConfig P]) :
    chipStarted P r = true ∧ (P.role = .tx → selectsTx P r = true ∧ selectsRx P r = false) ∧
      (P.role = .rx → selectsRx P r = true ∧ selectsTx P r = false) := by
  obtain ⟨hup, htx, hrx⟩ := valConfig_spec hP
  refine ⟨by simpa [chipStarted, h] using hup, fun hrole => ?_, fun hrole => ?_⟩
  · simp [selectsTx, selectsRx, h, htx hrole]
  · simpa [selectsTx, selectsRx, h] using hrx hrole

/-- A quiet RADIO after INIT: the ten writes, and the transmit queue as before. -/
theorem initState_radio (hP : s.cfg.wf) (hq : quiet s) :
    (initState s).radio.rreg = writeAll (initWrites s.cfg) s.radio.rreg ∧
      (initState s).radio.txq = s.radio.txq ∧ (initState s).radio.air = .idle := by
  obtain ⟨hrreg, htxq, hair⟩ := writesState_radio hP hq fun w hw =>
    have ⟨ha, hst, hwidth, _⟩ := initWrites_allowed hP w hw
    ⟨ha, hst, hwidth⟩
  have hquiet : quiet (writesState (initWrites s.cfg) s) := ⟨by rw [writesState_ce]; exact hq.1, hair⟩
  have hwait : (initState s).radio = (writesState (initWrites s.cfg) s).radio := by
    rw [← waitFor_quiet_radio .tInitSettle hquiet]
    unfold initState
    rfl
  rw [hwait]
  exact ⟨hrreg, htxq, hair⟩

/-- Settles O41: RADIO after INIT is the ten writes, the last of which starts it in its role. -/
theorem initConfiguresTheRadio : Obligations.InitConfiguresTheRadio := by
  rintro s hP ⟨hcsn, hce, hatt, -⟩ hdone hair
  obtain ⟨hrreg, htxq, hidle⟩ := initState_radio hP ⟨hce, hair⟩
  have hcfg : (initState s).cfg = s.cfg := by simp [initState]
  have hheld : ∀ w ∈ initWrites s.cfg, Memory.read (initState s).radio.rreg w.1.toNat = some w.2 := by
    rw [hrreg]
    refine read_writeAll_mem (initWrites_nodup hP) fun w hw => ?_
    obtain ⟨-, -, hwidth, -⟩ := initWrites_allowed hP w hw
    exact (width_bounds hP hwidth).1
  refine ⟨initState s, outcomeOfResult_eq_next.2 ((initRadio_eq_ok hP hcsn hatt).2 ⟨hdone, rfl⟩), hheld,
    fun b hb => ?_, htxq, hidle, ?_⟩
  · rw [hrreg, read_writeAll_other hb]
  · rw [hcfg]
    exact role_of_valConfig hP (hheld (s.cfg.regConfig, [valConfig s.cfg]) (by simp [initWrites]))

/-! ## FLUSH_TX and W_TX_PAYLOAD (R160, R161) -/

/-- Settles O42: the transaction of the command byte alone. -/
theorem flushTxEmptiesTheQueue : Obligations.FlushTxEmptiesTheQueue := by
  intro s _ hcsn hatt
  obtain ⟨r0, hbytes⟩ := List.length_eq_one_iff.1 (xactBytes_length s.cfg.cmdFlushTx (.out []) s)
  refine ⟨xactState s.cfg.cmdFlushTx (.out []) s, r0, outcomeOfResult_eq_next.2 (flushTx_eq_ok.2 ⟨hcsn, hatt, rfl⟩), ?_,
    xactState_ret _ _ s, xactState_padK _ _ s hatt, xactState_sameLines _ _ hcsn, xactState_microFrame _ _ s,
    fun hq => ?_⟩
  · rw [xactState_trace, hbytes]
    rfl
  · have hradio := xactState_flush hq
    exact ⟨by rw [hradio], by rw [hradio]; exact hq.2, by rw [hradio], fun b => by rw [hradio]⟩

/-- Settles O43: the transaction of the payload write and its five bytes. -/
theorem wTxPayloadQueuesThePayload : Obligations.WTxPayloadQueuesThePayload := by
  intro p s hP hcsn hatt
  have h5 : 5 ≤ s.cfg.nMax := hP.2.2.2.2.2
  refine ⟨xactState (writeFirst s.cfg s.cfg.regTxPayload) (.out p.toList) s,
    xactBytes (writeFirst s.cfg s.cfg.regTxPayload) (.out p.toList) s,
    outcomeOfResult_eq_next.2 ((wTxPayload_eq_ok h5).2 ⟨toList_length p, hcsn, hatt, rfl⟩), xactBytes_length _ _ s,
    xactState_trace _ _ s, xactState_ret _ _ s, xactState_padK _ _ s hatt, xactState_sameLines _ _ hcsn,
    xactState_microFrame _ _ s, fun hq => ?_⟩
  have hradio := xactState_payloadWrite hP hq p
  exact ⟨by rw [hradio], by rw [hradio]; exact hq.2, by rw [hradio], fun b => by rw [hradio]⟩

/-! ## The rows of the radio are the operations they stand for (R72 to R74, R84) -/

theorem map_snd_eq_bind {α : Type} (x : Result (α × State)) :
    (x.map Prod.snd : Result State) = x >>= fun p => .ok p.2 := by
  cases x <;> rfl

theorem exec_radioWRegister (a : Byte) (data : List Byte) (s : State) :
    exec (.radioWRegister a data) s = exec (.regWrite a data) s := by
  change execRadioWRegister a data s = outcomeOfResult (regWrite a data s)
  unfold execRadioWRegister regWrite
  split
  · rw [map_snd_eq_bind]
  · rfl

theorem exec_radioRRegister (a : Byte) (n : Nat) (s : State) :
    exec (.radioRRegister a n) s = exec (.regRead a n) s := by
  change execRadioRRegister a n s = outcomeOfReturn (regRead a n s)
  unfold execRadioRRegister regRead
  split <;> rfl

theorem exec_radioFlushTx (s : State) : exec .radioFlushTx s = exec .flushTx s :=
  congrArg outcomeOfResult (map_snd_eq_bind _)

/-- A payload is five bytes and its address is the one payload code, so neither guard of W_TX_PAYLOAD stops it. -/
theorem exec_radioWTxPayload (p : Bytes5) (s : State) :
    exec (.radioWTxPayload p) s = exec (.wTxPayload p.toList) s := by
  change outcomeOfResult _ = outcomeOfResult (wTxPayload p.toList s)
  rw [wTxPayload, if_pos (show p.toList.length = payloadWidth from rfl), regWrite, if_pos (addressAllowed_self _ _), map_snd_eq_bind]

theorem exec_radioRRxPayload (s : State) : exec .radioRRxPayload s = exec .rRxPayload s := by
  change outcomeOfResult _ = outcomeOfResult (rRxPayload s)
  rw [rRxPayload, regRead, if_pos (addressAllowed_self _ _)]
  cases radioXact (readFirst s.cfg.regRxPayload) (.inp payloadWidth) s <;> rfl

theorem exec_tframe (l h x y : Byte) (s : State) :
    exec (.tframe l h x y) s = exec (.wTxPayload (Bytes5.toList ⟨l, h, x, y, tfReserved⟩)) s := rfl

/-- Settles O58: the four rows by the operations they stand for. -/
theorem commandRowsAreOneTransaction : Obligations.CommandRowsAreOneTransaction := by
  intro s hP hcsn hatt
  refine ⟨?_, fun p => ?_, ?_, fun l h x y => ?_⟩
  · obtain ⟨t, r0, hrun, htrace, hret, hpad, hlines, hframe, hquiet⟩ := flushTxEmptiesTheQueue s hP hcsn hatt
    refine ⟨t, r0, (exec_radioFlushTx s).trans hrun, htrace, hret, hpad, hlines, hframe, fun hq => ?_⟩
    obtain ⟨htxq, -, -, hmem⟩ := hquiet hq
    exact ⟨htxq, hmem⟩
  · obtain ⟨t, got, hrun, hgot, htrace, hret, hpad, hlines, hframe, hquiet⟩ :=
      wTxPayloadQueuesThePayload p s hP hcsn hatt
    refine ⟨t, got, (exec_radioWTxPayload p s).trans hrun, hgot, htrace, hret, hpad, hlines, hframe, fun hq => ?_⟩
    obtain ⟨htxq, -, -, hmem⟩ := hquiet hq
    exact ⟨htxq, hmem⟩
  · obtain ⟨t, r0, q, hrun, hrx, htx, htrace, hcf, htf, hst, hret, hpad, hlines, hcontrol, hfixed, hquiet⟩ :=
      rRxPayloadTakesTheHead s hP hcsn hatt
    refine ⟨t, r0, q, (exec_radioRRxPayload s).trans hrun, hrx, htx, htrace, hcf, htf, hst, hret, hpad, hlines,
      hcontrol, hfixed, fun hq => ?_⟩
    obtain ⟨hmem, -, -⟩ := hquiet hq
    exact hmem
  · obtain ⟨t, got, hrun, hgot, htrace, hret, hpad, hlines, hframe, hquiet⟩ :=
      wTxPayloadQueuesThePayload ⟨l, h, x, y, tfReserved⟩ s hP hcsn hatt
    refine ⟨t, got, (exec_tframe l h x y s).trans hrun, hgot, htrace, hret, hpad, hlines, hframe, fun hq => ?_⟩
    obtain ⟨htxq, -, -, hmem⟩ := hquiet hq
    exact ⟨htxq, hmem⟩

theorem addressAllowed_eq_true {P : Config} {code a : Byte} :
    addressAllowed P code a = true ↔ a &&& P.wOpcode = 0#8 ∨ a = code := by
  simp [addressAllowed]

/-- A transaction receives one byte, which is discarded (D7), before those of its data. -/
theorem xactBytes_eq_cons (first : Byte) (arg : XactArg) (s : State) :
    ∃ r0, xactBytes first arg s = r0 :: (xactBytes first arg s).tail :=
  ⟨_, rfl⟩

/-- Settles O57: the two rows by REG_WRITE and REG_READ, each one transaction. -/
theorem registerRowsAreOneTransaction : Obligations.RegisterRowsAreOneTransaction := by
  intro a s hcsn hatt
  refine ⟨fun data ha hlen => ?_, fun n ha hlen => ?_⟩
  · exact ⟨xactState (writeFirst s.cfg a) (.out data) s, xactBytes (writeFirst s.cfg a) (.out data) s,
      (exec_radioWRegister a data s).trans (exec_regWrite hcsn hatt (addressAllowed_eq_true.2 ha) hlen),
      xactBytes_length _ _ s, xactState_trace _ _ s, xactState_ret _ _ s, xactState_padK _ _ s hatt,
      xactState_sameLines _ _ hcsn, xactState_microFrame _ _ s,
      fun hP hq hmap hst hw => xactState_regWrite_read hP hq hmap hst hw⟩
  · obtain ⟨r0, hbytes⟩ := xactBytes_eq_cons (readFirst a) (.inp n) s
    have htrace := xactState_trace (readFirst a) (.inp n) s
    rw [hbytes] at htrace
    refine ⟨_, r0, (exec_radioRRegister a n s).trans (exec_regRead hcsn hatt (addressAllowed_eq_true.2 ha) hlen),
      by simp [XactArg.len], ?_, xactState_padK (readFirst a) (.inp n) s hatt,
      xactState_sameLines (readFirst a) (.inp n) hcsn, xactState_microFrame (readFirst a) (.inp n) s, fun hP hq hmap hw b => ?_⟩
    · simpa [sentData] using htrace
    · have hradio := xactState_regRead hP hq hmap hw
      exact congrArg (fun r => Memory.read r.rreg b) hradio

end Sys2Proof.Device
end

section
/-! SUPPORT. FAULTCHECK (R203, R204): its two branches with their events and what it leaves as it was, in every phase and
whatever RADIO does meanwhile; and the statement about the STATUS_BYTE row. -/

namespace Sys2Proof.Device

open Sys2Proof.Machine Sys2Proof.Safety Sys2Proof.Invariants

variable {s t u : State}

/-- What a FAULTCHECK leaves as it was: all but `st`, `outcome`, the trace and RADIO's part outside its register map. -/
abbrev checkFrame (s t : State) : Prop :=
  t.cf = s.cf ∧ t.tf = s.tf ∧ t.rxp = s.rxp ∧ t.initDone = s.initDone ∧ t.phase = s.phase ∧ t.seq = s.seq ∧
    t.ret = s.ret ∧ t.padK = s.padK ∧ sameLines s t ∧ sameFixed s t ∧ sameMemory s t

/-! ## The status read and the status reset leave the register map alone, even with an attempt pending (R55) -/

theorem statusReadState_rreg (hP : s.cfg.wf) : (statusReadState s).radio.rreg = s.radio.rreg := by
  rw [statusReadState_radio]
  refine xactState_rreg _ _ s fun n r hr => ?_
  rw [transactionEffect_statusRead n hP (sentData_length (.inp 1) s.cfg)]
  exact hr

theorem statusResetState_rreg (hP : s.cfg.wf) : (statusResetState s).radio.rreg = s.radio.rreg := by
  refine xactState_rreg _ _ s fun n r hr => ?_
  rw [sentData, transactionEffect_statusReset n hP]
  exact hr

theorem recoveryState_rreg (hP : s.cfg.wf) : (recoveryState s).radio.rreg = s.radio.rreg := by
  have hreset : (statusResetState (faultOn s)).radio.rreg = (faultOn s).radio.rreg := statusResetState_rreg hP
  simp only [recoveryState, faultOff_radio, waitFor_radio, foldl_radioAct_rreg, hreset, faultOn_radio]

/-! ## Recovery (R204) -/

/-- The bytes received in the status reset of a recovery. -/
def recoveryBytes (s : State) : List Byte :=
  xactBytes (writeFirst s.cfg s.cfg.regStatus) (.out [s.cfg.statusIrqMask]) (faultOn s)

theorem recoveryBytes_length (s : State) : (recoveryBytes s).length = 2 := xactBytes_length _ _ _

theorem recoveryState_trace (s : State) :
    (recoveryState s).trace = s.trace ++ [.faultSig true] ++
      xactEvents [s.cfg.wOpcode ||| s.cfg.regStatus, s.cfg.statusIrqMask] (recoveryBytes s) ++
      [.wait .tFaultHold, .faultSig false] := by
  have hreset : (statusResetState (faultOn s)).trace = s.trace ++ [.faultSig true] ++
      xactEvents [s.cfg.wOpcode ||| s.cfg.regStatus, s.cfg.statusIrqMask] (recoveryBytes s) :=
    xactState_trace _ _ (faultOn s)
  rw [recoveryState, faultOff_trace, waitFor_trace, hreset, List.append_assoc]
  rfl

theorem recoveryState_padK (hatt : s.att = false) : (recoveryState s).padK = s.padK := by
  have hpad := xactState_padK (writeFirst s.cfg s.cfg.regStatus) (.out [s.cfg.statusIrqMask]) (faultOn s) hatt
  unfold recoveryState
  exact hpad

theorem recoveryState_checkFrame (hP : s.cfg.wf) (hidle : idleLines s) : checkFrame s (recoveryState s) := by
  obtain ⟨hcsn, -, hatt, hsig⟩ := hidle
  refine ⟨by simp, by simp, by simp, by simp, by simp, by simp, by simp, recoveryState_padK hatt,
    ⟨by simp [hcsn], by simp, by simp, by simp [hsig]⟩, ⟨by simp, by simp, by simp⟩, fun a => ?_⟩
  rw [recoveryState_rreg hP]

/-! ## FAULTCHECK -/

theorem checkFrame.trans (h : checkFrame s t) (h' : checkFrame t u) : checkFrame s u := by
  obtain ⟨hcf, htf, hrxp, hdone, hphase, hseq, hret, hpad, ⟨hcsn, hce, hatt, hsig⟩, ⟨hcfg, hirq, hin⟩, hmem⟩ := h
  obtain ⟨hcf', htf', hrxp', hdone', hphase', hseq', hret', hpad', ⟨hcsn', hce', hatt', hsig'⟩,
    ⟨hcfg', hirq', hin'⟩, hmem'⟩ := h'
  exact ⟨hcf'.trans hcf, htf'.trans htf, hrxp'.trans hrxp, hdone'.trans hdone, hphase'.trans hphase, hseq'.trans hseq,
    hret'.trans hret, hpad'.trans hpad,
    ⟨hcsn'.trans hcsn, hce'.trans hce, hatt'.trans hatt, hsig'.trans hsig⟩,
    ⟨hcfg'.trans hcfg, hirq'.trans hirq, hin'.trans hin⟩, fun a => (hmem' a).trans (hmem a)⟩

/-- The state after the status read of a FAULTCHECK and the classification of what it sampled (R203). -/
def classifiedState (x : TxOutcome) (s : State) : State := { statusReadState s with outcome := x }

theorem classifiedState_idleLines (x : TxOutcome) (hidle : idleLines s) : idleLines (classifiedState x s) := by
  obtain ⟨-, hce, hatt, hsig⟩ := hidle
  exact ⟨statusReadState_csn s, (statusReadState_ce s).trans hce, (statusReadState_att s).trans hatt,
    (statusReadState_faultSig s).trans hsig⟩

theorem classifiedState_checkFrame (x : TxOutcome) (hP : s.cfg.wf) (hidle : idleLines s) :
    checkFrame s (classifiedState x s) := by
  have ⟨hcsn, _, hatt, _⟩ := hidle
  unfold classifiedState
  refine ⟨by simp, by simp, by simp, by simp, by simp, by simp, by simp, statusReadState_padK s hatt,
    ⟨by simp [hcsn], by simp, by simp, by simp⟩, ⟨by simp, by simp, by simp⟩, fun a => ?_⟩
  simp only [statusReadState_rreg hP]

/-- The status read's events end with the byte sampled (R124). -/
theorem statusReadState_trace_eq {v : Byte} (hv : sampledStatus s = some v) :
    ∃ r0, (statusReadState s).trace = s.trace ++ xactEvents [s.cfg.regStatus, s.cfg.radioNop] [r0, v] := by
  obtain ⟨r0, r1, hbytes⟩ := List.length_eq_two.1 (xactBytes_length (readFirst s.cfg.regStatus) (.inp 1) s)
  have hr1 : r1 = v := by
    rw [sampledStatus, hbytes] at hv
    exact Option.some.inj hv
  refine ⟨r0, ?_⟩
  rw [statusReadState_trace, xactState_trace, hbytes, hr1, readFirst_eq]
  rfl

theorem maxRtSet_eq_true {P : Config} {v : Byte} : maxRtSet P v = true ↔ v &&& P.statusMaxRtMask ≠ 0#8 := by
  simp [maxRtSet]

theorem maxRtSet_eq_false {P : Config} {v : Byte} : maxRtSet P v = false ↔ v &&& P.statusMaxRtMask = 0#8 := by
  simp [maxRtSet]

/-- R203, R204, R244: the whole of what FAULTCHECK does with the byte `v` its status read samples. -/
theorem faultcheck_of_sample {v : Byte} (hP : s.cfg.wf) (hidle : idleLines s) (hdone : s.initDone = true)
    (hv : sampledStatus s = some v) :
    ∃ t r0 got, exec .faultcheck s = .next t ∧ t.st = some v ∧ got.length = 2 ∧
      (v &&& s.cfg.statusMaxRtMask = 0#8 → t.outcome = .notFailed ∧
        t.trace = s.trace ++ xactEvents [s.cfg.regStatus, s.cfg.radioNop] [r0, v]) ∧
      (v &&& s.cfg.statusMaxRtMask ≠ 0#8 → t.outcome = .maxRt ∧
        t.trace = s.trace ++ xactEvents [s.cfg.regStatus, s.cfg.radioNop] [r0, v] ++ [.faultSig true] ++
          xactEvents [s.cfg.wOpcode ||| s.cfg.regStatus, s.cfg.statusIrqMask] got ++
          [.wait .tFaultHold, .faultSig false]) ∧
      checkFrame s t := by
  obtain ⟨r0, htrace⟩ := statusReadState_trace_eq hv
  have ⟨hcsn, _, hatt, _⟩ := hidle
  have hrun : ∀ {t}, handleStatus v (statusReadState s) = .ok t → exec .faultcheck s = .next t := fun h =>
    outcomeOfResult_eq_next.2 ((faultcheck_eq_ok hP).2 ⟨hdone, hcsn, hatt, v, hv, h⟩)
  have hcfg : (statusReadState s).cfg = s.cfg := statusReadState_cfg s
  have hP' : (statusReadState s).cfg.wf := by rw [hcfg]; exact hP
  cases hbit : maxRtSet s.cfg v with
  | false =>
    refine ⟨classifiedState .notFailed s, r0, recoveryBytes s,
      hrun ((handleStatus_eq_ok hP').2 (.inl ⟨by rw [hcfg]; exact hbit, rfl⟩)), (statusReadState_st s).trans hv,
      recoveryBytes_length s, fun _ => ⟨rfl, htrace⟩, fun hne => ?_, classifiedState_checkFrame _ hP hidle⟩
    exact absurd (maxRtSet_eq_false.1 hbit) hne
  | true =>
    have hidle' := classifiedState_idleLines .maxRt hidle
    have ⟨hcsn', _, hatt', _⟩ := hidle'
    have hrecover := recoveryState_trace (classifiedState .maxRt s)
    refine ⟨recoveryState (classifiedState .maxRt s), r0, recoveryBytes (classifiedState .maxRt s),
      hrun ((handleStatus_eq_ok hP').2 (.inr ⟨by rw [hcfg]; exact hbit, hcsn', hatt', rfl⟩)),
      (recoveryState_st _).trans ((statusReadState_st s).trans hv), recoveryBytes_length _, fun h0 => ?_,
      fun _ => ⟨recoveryState_outcome _, ?_⟩,
      (classifiedState_checkFrame .maxRt hP hidle).trans (recoveryState_checkFrame hP' hidle')⟩
    · exact absurd h0 (maxRtSet_eq_true.1 hbit)
    · rw [hrecover, ← htrace, ← hcfg]
      rfl

/-! ## STATUS_BYTE -/

/-- R77: the row is a FAULTCHECK, the byte given as the draw of its status read. -/
theorem exec_statusByte (b : Byte) (s : State) : exec (.statusByte b) s = exec .faultcheck (giveDataByte b s) := rfl

/-- Settles O60: the byte sampled is the given one with RADIO's flags in their bits (R50), and the rest is FAULTCHECK. -/
theorem statusByteRowIsClassified : Obligations.StatusByteRowIsClassified := by
  intro b s
  refine ⟨fun hdone => ?_, fun hP hidle hdone => ?_⟩
  · change outcomeOfResult (faultcheck (giveDataByte b s)) = .refused .notInitialised
    rw [faultcheck, giveDataByte_initDone, hdone]
    rfl
  · obtain ⟨r, hsampled, hflags⟩ := sampledStatus_eq (s := giveDataByte b s) hP
    rw [(giveDataByte_answerAt b s).2] at hsampled
    obtain ⟨hmax, -, -, hrest⟩ := statusValue_spec hP r b
    obtain ⟨t, r0, got, hrun, hst, hgot, hclear, hset, hframe⟩ :=
      faultcheck_of_sample (s := giveDataByte b s) hP hidle hdone hsampled
    refine ⟨t, r0, statusValue s.cfg r b, got, (exec_statusByte b s).trans hrun, hst, hgot, hrest, fun hq => ?_, hclear,
      hset, hframe⟩
    obtain ⟨hmaxRt, -, -⟩ := hflags hq
    rw [hmax, hmaxRt]
    rfl

end Sys2Proof.Device
end

section
/-! SUPPORT. The requests (spec/30_encoding.md R70 to R89): the decoder reads back what the encoder writes, and a
step runs what the pending request decodes to; the reserved code is refused in every state. -/

namespace Sys2Proof.Encoding

open Sys2Proof.Machine

variable {s : State}

/-! ## Round trip (R71 to R87) -/

/-- The round trips of the constructors, together. -/
theorem roundTrip : ∀ i : Instr, Laws.RoundTrip.Statement i
  | .regRead a n => Laws.RoundTrip.regRead a n
  | .regWrite a data => Laws.RoundTrip.regWrite a data
  | .statusReset => Laws.RoundTrip.statusReset
  | .statusRead => Laws.RoundTrip.statusRead
  | .init => Laws.RoundTrip.init
  | .flushTx => Laws.RoundTrip.flushTx
  | .wTxPayload p => Laws.RoundTrip.wTxPayload p
  | .transmit p => Laws.RoundTrip.transmit p
  | .rRxPayload => Laws.RoundTrip.rRxPayload
  | .receive => Laws.RoundTrip.receive
  | .poll => Laws.RoundTrip.poll
  | .pack => Laws.RoundTrip.pack
  | .faultcheck => Laws.RoundTrip.faultcheck
  | .waitCycle => Laws.RoundTrip.waitCycle
  | .cycle => Laws.RoundTrip.cycle
  | .opselReserved => Laws.RoundTrip.opselReserved
  | .run => Laws.RoundTrip.run
  | .radioXact first arg => Laws.RoundTrip.radioXact first arg
  | .xfer tx => Laws.RoundTrip.xfer tx
  | .wait t => Laws.RoundTrip.wait t
  | .csnEnable => Laws.RoundTrip.csnEnable
  | .csnDisable => Laws.RoundTrip.csnDisable
  | .ceHigh => Laws.RoundTrip.ceHigh
  | .ceLow => Laws.RoundTrip.ceLow
  | .attAssert => Laws.RoundTrip.attAssert
  | .attRelease => Laws.RoundTrip.attRelease
  | .faultOn => Laws.RoundTrip.faultOn
  | .faultOff => Laws.RoundTrip.faultOff
  | .radioRRegister a n => Laws.RoundTrip.radioRRegister a n
  | .radioWRegister a data => Laws.RoundTrip.radioWRegister a data
  | .radioFlushTx => Laws.RoundTrip.radioFlushTx
  | .radioWTxPayload p => Laws.RoundTrip.radioWTxPayload p
  | .radioRRxPayload => Laws.RoundTrip.radioRRxPayload
  | .padPollCmd => Laws.RoundTrip.padPollCmd
  | .padReadyCmd => Laws.RoundTrip.padReadyCmd
  | .padFill => Laws.RoundTrip.padFill
  | .padNop f => Laws.RoundTrip.padNop f
  | .tframe l h x y => Laws.RoundTrip.tframe l h x y
  | .statusByte b => Laws.RoundTrip.statusByte b

/-- Settles O4: the round trip of each constructor. -/
theorem decodeInvertsEncode : Obligations.DecodeInvertsEncode :=
  fun P i r hP hwf hencode => roundTrip i P r hP hwf hencode

/-- Settles O6: each word is a closed term, and the decoder is run on it. -/
theorem wordsOfTheSpecDecode : Obligations.WordsOfTheSpecDecode :=
  ⟨rfl, rfl, rfl, rfl, rfl, rfl, rfl, rfl, rfl⟩

/-! ## The step (R87) -/

theorem step_request_ok {r : Request} {rest : List Input} {i : Instr} (hin : s.inputs = .request r :: rest)
    (hdecode : decode s.cfg r = .ok i) : step s = exec i { s with inputs := rest } := by
  have hfetch : fetch s = (.run i, { s with inputs := rest }) := by simp only [fetch, hin, hdecode]
  simp only [step, hfetch]

theorem step_request_error {r : Request} {rest : List Input} {e : DecodeError}
    (hin : s.inputs = .request r :: rest) (hdecode : decode s.cfg r = .error e) :
    step s = .refused (.badRequest e) := by
  have hfetch : fetch s = (.bad e, { s with inputs := rest }) := by simp only [fetch, hin, hdecode]
  simp only [step, hfetch]

/-- Settles O7: what `fetch` takes from the inputs is the decoded request. -/
theorem stepRunsTheDecodedRequest : Obligations.StepRunsTheDecodedRequest :=
  fun _ _ _ hin => ⟨fun _ => step_request_ok hin, fun _ => step_request_error hin⟩

/-! ## The reserved code (R241) -/

/-- Log 14: the reserved code is the reserved operation, whatever bytes follow it. -/
theorem decode_reservedCode (P : Config) (ops : List Byte) :
    decode P ⟨.opsel, 0b1111#8 :: ops⟩ = .ok .opselReserved := rfl

/-- Settles O56: the code decodes to the reserved operation, which is refused. -/
theorem reservedCodeIsRefused : Obligations.ReservedCodeIsRefused :=
  fun s => ⟨rfl, fun ops _ hin => step_request_ok hin (decode_reservedCode s.cfg ops)⟩

end Sys2Proof.Encoding
end

section
/-! SUPPORT. The register transfers at their guards (spec/41_radio_register.md R120 to R122, R236, R237): what is
refused, and the one transaction of what is not; and the ten writes of INIT (spec/42_radio_init.md R140). -/

namespace Sys2Proof.Encoding

open Sys2Proof.Machine Sys2Proof.Safety Sys2Proof.Device

variable {s : State} {a : Byte} {data : List Byte} {n : Nat}

/-! ## Refusals (R236, R237) -/

theorem not_addressAllowed {P : Config} {code : Byte} (hbit : a &&& P.wOpcode ≠ 0#8) (hcode : a ≠ code) :
    ¬addressAllowed P code a = true := fun h =>
  (addressAllowed_eq_true.1 h).elim hbit hcode

theorem radioXact_lenRange {first : Byte} {arg : XactArg} (h : s.cfg.nMax < arg.len) :
    radioXact first arg s = .error (.refuse .lenRange) := by
  rw [radioXact, if_pos h]

theorem regWrite_addrHasOpcodeBit (h : ¬addressAllowed s.cfg s.cfg.regTxPayload a = true) :
    regWrite a data s = .error (.refuse .addrHasOpcodeBit) := by
  rw [regWrite, if_neg h]

theorem regWrite_lenRange (h : addressAllowed s.cfg s.cfg.regTxPayload a = true) (hlen : s.cfg.nMax < data.length) :
    regWrite a data s = .error (.refuse .lenRange) := by
  rw [regWrite, if_pos h, radioXact_lenRange (arg := .out data) hlen]
  rfl

theorem regRead_addrHasOpcodeBit (h : ¬addressAllowed s.cfg s.cfg.regRxPayload a = true) :
    regRead a n s = .error (.refuse .addrHasOpcodeBit) := by
  rw [regRead, if_neg h]

theorem regRead_lenRange (h : addressAllowed s.cfg s.cfg.regRxPayload a = true) (hlen : s.cfg.nMax < n) :
    regRead a n s = .error (.refuse .lenRange) := by
  rw [regRead, if_pos h, radioXact_lenRange (arg := .inp n) hlen]

theorem exec_radioXact_lenRange {first : Byte} {arg : XactArg} (h : s.cfg.nMax < arg.len) :
    exec (.radioXact first arg) s = .refused .lenRange := by
  change execRadioXact first arg s = .refused .lenRange
  cases arg with
  | out data => simp only [execRadioXact, radioXact_lenRange h, Except.map, outcomeOfResult_refuse]
  | inp n => simp only [execRadioXact, radioXact_lenRange h, outcomeOfReturn_refuse]

theorem exec_regWrite_refused {r : Refusal} (h : regWrite a data s = .error (.refuse r)) :
    exec (.regWrite a data) s = .refused r ∧ exec (.radioWRegister a data) s = .refused r := by
  have hrun : exec (.regWrite a data) s = .refused r := congrArg outcomeOfResult h
  exact ⟨hrun, (exec_radioWRegister a data s).trans hrun⟩

theorem exec_regRead_refused {r : Refusal} (h : regRead a n s = .error (.refuse r)) :
    exec (.regRead a n) s = .refused r ∧ exec (.radioRRegister a n) s = .refused r := by
  have hrun : exec (.regRead a n) s = .refused r := congrArg outcomeOfReturn h
  exact ⟨hrun, (exec_radioRRegister a n s).trans hrun⟩

/-- Settles O31: the guards of the transfers, and of the rows, which are these transfers. -/
theorem transfersRefuseBadOperands : Obligations.TransfersRefuseBadOperands := by
  intro s
  refine ⟨fun first arg => exec_radioXact_lenRange, fun a data hbit hcode => ?_, fun a n hbit hcode => ?_,
    fun a data ha hlen => ?_, fun a n ha hlen => ?_⟩
  · exact exec_regWrite_refused (regWrite_addrHasOpcodeBit (not_addressAllowed hbit hcode))
  · exact exec_regRead_refused (regRead_addrHasOpcodeBit (not_addressAllowed hbit hcode))
  · exact exec_regWrite_refused (regWrite_lenRange (addressAllowed_eq_true.2 ha) hlen)
  · exact exec_regRead_refused (regRead_lenRange (addressAllowed_eq_true.2 ha) hlen)

/-! ## REG_WRITE and REG_READ (R121, R122) -/

/-- Settles O32: the row of the write, which is one transaction, is REG_WRITE. -/
theorem regWriteSendsItsData : Obligations.RegWriteSendsItsData := by
  intro a data s hcsn hatt ha hlen
  obtain ⟨t, got, hrun, hgot, htrace, hret, hpad, hlines, hframe, -⟩ :=
    (registerRowsAreOneTransaction a s hcsn hatt).1 data ha hlen
  exact ⟨t, got, (exec_radioWRegister a data s).symm.trans hrun, hgot, htrace, hret, hpad, hlines, hframe⟩

/-- Settles O34: the row of the read, which is one transaction, is REG_READ. -/
theorem regReadReturnsItsBytes : Obligations.RegReadReturnsItsBytes := by
  intro a n s hcsn hatt ha hlen
  obtain ⟨t, r0, hrun, hret, htrace, hpad, hlines, hframe, -⟩ :=
    (registerRowsAreOneTransaction a s hcsn hatt).2 n ha hlen
  exact ⟨t, r0, (exec_radioRRegister a n s).symm.trans hrun, hret, htrace, hpad, hlines, hframe⟩

/-! ## INIT (R140 to R153) -/

/-- What one write of a sequence sends in its bracket (R71, R121). -/
def writeSent (P : Config) (w : Byte × List Byte) : List Byte := writeFirst P w.1 :: w.2

/-- The events of a sequence of writes: one bracket for each, of two events for each byte and two for the bracket
(R120, R140). -/
theorem writesState_trace {ws : List (Byte × List Byte)} :
    ∀ {s : State}, ∃ es, (writesState ws s).trace = s.trace ++ es ∧
      es.length = (ws.map fun w => 2 * w.2.length + 4).sum ∧
      ∀ fs, radioBrackets none (es ++ fs) = ws.map (writeSent s.cfg) ++ radioBrackets none fs := by
  induction ws with
  | nil => exact ⟨[], (List.append_nil _).symm, rfl, fun _ => rfl⟩
  | cons w ws ih =>
    intro s
    obtain ⟨es, htrace, hlen, hbrackets⟩ := ih (s := xactState (writeFirst s.cfg w.1) (.out w.2) s)
    have hbytes : (writeSent s.cfg w).length = (xactBytes (writeFirst s.cfg w.1) (.out w.2) s).length :=
      (xactBytes_length (writeFirst s.cfg w.1) (.out w.2) s).symm
    refine ⟨xactEvents (writeSent s.cfg w) (xactBytes (writeFirst s.cfg w.1) (.out w.2) s) ++ es, ?_, ?_, fun fs => ?_⟩
    · rw [writesState_cons, htrace, xactState_trace, List.append_assoc]
      rfl
    · rw [List.length_append, xactEvents_length hbytes, hlen, List.map_cons, List.sum_cons, writeSent, List.length_cons]
      omega
    · rw [List.append_assoc, radioBrackets_xact hbytes, hbrackets, xactState_cfg]
      rfl

theorem valConfig_eq (P : Config) :
    valConfig P = P.configBase ||| P.pwrUpMask ||| (if P.role = .rx then P.primRxMask else 0x00#8) := by
  unfold valConfig
  cases P.role <;> rfl

/-- The events of INIT: a bracket for each of the ten writes, then the settling wait. -/
theorem initState_trace (s : State) :
    ∃ es, (initState s).trace = s.trace ++ es ∧ es.length = 77 ∧
      radioBrackets none es = (initWrites s.cfg).map (writeSent s.cfg) ∧
      es.getLast? = some (.wait .tInitSettle) := by
  obtain ⟨es, htrace, hlen, hbrackets⟩ := writesState_trace (ws := initWrites s.cfg) (s := s)
  refine ⟨es ++ [.wait .tInitSettle], ?_, ?_, ?_, by simp⟩
  · rw [← List.append_assoc, ← htrace]
    rfl
  · rw [List.length_append, hlen]
    rfl
  · rw [hbrackets]
    exact List.append_nil _

/-- INIT moves no register but `init_done` and leaves the lines as they were (R153). -/
theorem initState_frame (hcsn : s.csn = true) (hatt : s.att = false) :
    (initState s).outcome = s.outcome ∧ (initState s).phase = s.phase ∧ (initState s).seq = s.seq ∧
      (initState s).ret = s.ret ∧ (initState s).padK = s.padK ∧ sameLines s (initState s) ∧
      sameData s (initState s) ∧ sameFixed s (initState s) := by
  have hpad := writesState_padK (initWrites s.cfg) s hatt
  have hsel := writesState_csn (initWrites s.cfg) s hcsn
  unfold initState
  exact ⟨by simp, by simp, by simp, by simp, hpad, ⟨hsel.trans hcsn.symm, by simp, by simp, by simp⟩,
    ⟨by simp, by simp, by simp, by simp⟩, by simp, by simp, by simp⟩

/-- Settles O40: ten writes, one bracket each, then the settling wait. -/
theorem initWritesInOrder : Obligations.InitWritesInOrder := by
  rintro s hP ⟨hcsn, -, hatt, -⟩ hdone
  obtain ⟨es, htrace, hlen, hbrackets, hlast⟩ := initState_trace s
  refine ⟨initState s, es, outcomeOfResult_eq_next.2 ((initRadio_eq_ok hP hcsn hatt).2 ⟨hdone, rfl⟩), htrace, hlen,
    ?_, hlast, rfl, initState_frame hcsn hatt⟩
  rw [hbrackets, ← valConfig_eq]
  rfl

end Sys2Proof.Encoding
end

section
/-! SUPPORT. The controller's exchange (spec/44_controller_poll.md R180 to R188, spec/30_encoding.md R80 to R83): the
single rows, and POLL. -/

namespace Sys2Proof.Encoding

open Sys2Proof.Machine Sys2Proof.Safety

variable {s : State}

/-! ## A row is one exchange (R80) -/

/-- The state after the row of position `k`. -/
def padRowState (k : Nat) (s : State) : State := exchange (padSent k) (waitFor .tPadSettle s)

theorem receivedByte_pad (T : TimeParam) (hcsn : s.csn = true) : receivedByte (waitFor T s) = answerAt s 0 := by
  simp [receivedByte, hcsn, answerAt_zero, nextAnswer]

theorem padRowState_trace (k : Nat) (hcsn : s.csn = true) :
    (padRowState k s).trace = s.trace ++ [Event.wait .tPadSettle, Event.xfer (padSent k) (answerAt s 0)] := by
  rw [padRowState, exchange_trace, waitFor_trace, receivedByte_pad .tPadSettle hcsn, List.append_assoc]
  rfl

theorem padRowState_padK (k : Nat) (hatt : s.att = true) (hk : s.padK < 9) :
    (padRowState k s).padK = s.padK + 1 := by
  simp [padRowState, hatt, padAdvance, hk]

theorem exchange_sameMemory (T : TimeParam) (tx : Byte) (s : State) : sameMemory s (exchange tx (waitFor T s)) :=
  fun a => congrArg (Memory.read · a) (exchangeState_rreg T [tx] s)

/-- What every row leaves as it was: the lines, the block's registers and the register map (R80, R245). -/
theorem padRowState_frame (k : Nat) (s : State) :
    sameLines s (padRowState k s) ∧ microFrame s (padRowState k s) ∧ sameMemory s (padRowState k s) := by
  refine ⟨⟨?_, ?_, ?_, ?_⟩, ⟨⟨?_, ?_, ?_, ?_⟩, ⟨?_, ?_, ?_, ?_⟩, ?_, ?_, ?_⟩, exchange_sameMemory _ _ s⟩ <;>
    simp [padRowState]

/-- A row that drops the byte (R183). -/
theorem padRow_dropped (k : Nat) (hcsn : s.csn = true) (hatt : s.att = true) :
    outcomeOfResult ((padExchange k s).map Prod.snd) = .next (padRowState k s) :=
  outcomeOfResult_eq_next.2 (map_snd_eq_ok.2 ⟨_, padExchange_eq_ok.2 ⟨hcsn.trans hatt.symm, rfl, rfl⟩⟩)

/-- A row that hands the decoded byte over (R80, R182 to R185). -/
theorem padRow_captured (k : Nat) (hcsn : s.csn = true) (hatt : s.att = true) :
    outcomeOfReturn (padCapture k s) = .next { padRowState k s with ret := padDecoded k (answerAt s 0) } := by
  rw [← receivedByte_pad .tPadSettle hcsn]
  exact outcomeOfReturn_eq_next.2 ⟨_, _, padCapture_eq_ok.2 ⟨hcsn.trans hatt.symm, rfl, rfl⟩, rfl⟩

/-- R185: inverting a byte is the exclusive or with 0xFF. -/
theorem not_eq_xor (b : Byte) : ~~~b = b ^^^ 0xFF#8 := (BitVec.xor_allOnes (x := b)).symm

theorem padDecoded_field (f : PadField) (b : Byte) : padDecoded (padFieldPosition f) b = [b ^^^ 0xFF#8] := by
  rw [← not_eq_xor]
  cases f <;> rfl

theorem padSent_field (f : PadField) : padSent (padFieldPosition f) = 0xFF#8 := by
  cases f <;> rfl

/-- Settles O59: each row is one exchange; two drop the byte, the others hand it over. -/
theorem controllerRowsAreOneExchange : Obligations.ControllerRowsAreOneExchange := by
  intro s hcsn hatt
  refine
    ⟨⟨_, padRow_dropped 0 hcsn hatt, padRowState_trace 0 hcsn, rfl, padRowState_padK 0 hatt, padRowState_frame 0 s⟩,
    ⟨_, padRow_captured 1 hcsn hatt, padRowState_trace 1 hcsn, rfl, padRowState_padK 1 hatt, padRowState_frame 1 s⟩,
    ⟨_, padRow_dropped 2 hcsn hatt, padRowState_trace 2 hcsn, rfl, padRowState_padK 2 hatt, padRowState_frame 2 s⟩,
    fun f => ⟨_, padRow_captured (padFieldPosition f) hcsn hatt, ?_, padDecoded_field f _,
      padRowState_padK (padFieldPosition f) hatt, padRowState_frame (padFieldPosition f) s⟩⟩
  rw [← padSent_field f]
  exact padRowState_trace (padFieldPosition f) hcsn

/-! ## POLL (R180) -/

/-- Nine draws, one by one. -/
theorem answersFrom_nine (s : State) :
    [answerAt s 0, answerAt s 1, answerAt s 2, answerAt s 3, answerAt s 4, answerAt s 5, answerAt s 6, answerAt s 7,
      answerAt s 8] = answersFrom s 9 := rfl

theorem pollState_trace (hcsn : s.csn = true) :
    (pollState s).trace = s.trace ++ pollEvents (answersFrom s 9) := by
  have hbytes : exchangeBytes .tPadSettle pollSent (attAssertState s) = answersFrom s 9 := exchangeBytes_pad _ _ _ hcsn
  change (exchangeState .tPadSettle pollSent (attAssertState s)).trace ++ [Event.att false] = _
  rw [exchangeState_trace, hbytes]
  simp [attAssertState, pollEvents]

/-- PAD counts the exchanges of its bracket up to nine (R56). -/
theorem exchangeState_padK_counts (T : TimeParam) (txs : List Byte) :
    ∀ s : State, s.att = true → s.padK + txs.length ≤ 9 → (exchangeState T txs s).padK = s.padK + txs.length := by
  induction txs with
  | nil => exact fun _ _ _ => rfl
  | cons tx txs ih =>
    intro s hatt hk
    rw [List.length_cons] at hk
    have hstep : (exchange tx (waitFor T s)).padK = s.padK + 1 := by
      simp [hatt, padAdvance, show s.padK < 9 by omega]
    rw [exchangeState_cons, ih (exchange tx (waitFor T s)) hatt (by omega), hstep, List.length_cons]
    omega

theorem pollState_padK (s : State) : (pollState s).padK = 9 := by
  have hcount := exchangeState_padK_counts .tPadSettle pollSent (attAssertState s) rfl
    (by simp [attAssertState, pollSent, pollLen])
  simpa [pollState, attAssertState, pollSent, pollLen] using hcount

theorem pollState_rreg (s : State) : (pollState s).radio.rreg = s.radio.rreg := by
  simp [pollState, attAssertState]

/-- What POLL leaves as it was: all but `cf` and PAD's position. -/
theorem pollState_frame (hatt : s.att = false) :
    (pollState s).tf = s.tf ∧ (pollState s).st = s.st ∧ (pollState s).rxp = s.rxp ∧ (pollState s).ret = s.ret ∧
      sameLines s (pollState s) ∧ sameControl s (pollState s) ∧ sameFixed s (pollState s) ∧
      sameMemory s (pollState s) := by
  refine ⟨?_, ?_, ?_, ?_, ⟨?_, ?_, ?_, ?_⟩, ⟨?_, ?_, ?_, ?_⟩, ⟨?_, ?_, ?_⟩, fun a => by rw [pollState_rreg]⟩ <;>
    simp [hatt]

/-- R82, R184: the two button bytes, each inverted, side by side. -/
theorem buttonsOf_eq_append (b1 b2 : Byte) : buttonsOf b1 b2 = ~~~b1 ++ ~~~b2 := by
  rw [BitVec.append_def, BitVec.shiftLeftZeroExtend_eq]
  rfl

theorem buttonsOf_toNat (b1 b2 : Byte) :
    (buttonsOf b1 b2).toNat = (b1 ^^^ 0xFF#8).toNat * 256 + (b2 ^^^ 0xFF#8).toNat := by
  rw [← not_eq_xor, ← not_eq_xor, buttonsOf_eq_append, BitVec.toNat_append,
    ← Nat.shiftLeft_add_eq_or_of_lt (~~~b2).isLt, Nat.shiftLeft_eq]

/-- Settles O47: the nine bytes of the exchange are the next draws, and `cf` is their decode. -/
theorem pollDecodesTheNineBytes : Obligations.PollDecodesTheNineBytes := by
  intro s hcsn hatt
  refine ⟨pollState s, answerAt s 0, answerAt s 1, answerAt s 2, answerAt s 3, answerAt s 4, answerAt s 5, answerAt s 6,
    answerAt s 7, answerAt s 8, buttonsOf (answerAt s 3) (answerAt s 4),
    outcomeOfResult_eq_next.2 (poll_eq_ok.2 ⟨hcsn, hatt, rfl⟩), answersFrom_nine s, pollState_trace hcsn, ?_,
    buttonsOf_toNat _ _, pollState_padK s, pollState_frame hatt⟩
  rw [pollState_cf, ← answersFrom_nine]
  simp only [← not_eq_xor]
  rfl

end Sys2Proof.Encoding
end

section
/-! SUPPORT. One pass of the loop (spec/45_bridge_loop.md R201 to R209): the events of TRANSMIT, of FAULTCHECK and of
CYCLE, the states a CYCLE goes through, and what it leaves of RADIO. -/

namespace Sys2Proof.Encoding

open Sys2Proof.Machine Sys2Proof.Safety Sys2Proof.Invariants Sys2Proof.Device

variable {s : State} {P : Config} {p : Bytes5} {v : Byte} {es : List Event}

/-! ## The events of TRANSMIT (R162) -/

/-- The events of the enable pulse (R162 steps 3 to 6). -/
def pulseEvents : List Event := [.wait .tTxPre, .ce true, .wait .tCePulse, .ce false, .wait .tTxPost]

/-- The events of one TRANSMIT of `p`: flush, load, enable pulse. -/
def TransmitEvents (P : Config) (p : Bytes5) (es : List Event) : Prop :=
  ∃ r0 got, got.length = 6 ∧
    es = xactEvents [P.cmdFlushTx] [r0] ++ (xactEvents (writeFirst P P.regTxPayload :: p.toList) got ++ pulseEvents)

theorem TransmitEvents.length (h : TransmitEvents P p es) : es.length = 23 := by
  obtain ⟨r0, got, hgot, rfl⟩ := h
  have hload : (writeFirst P P.regTxPayload :: p.toList).length = got.length := by rw [hgot]; rfl
  rw [List.length_append, List.length_append, xactEvents_length (by rfl), xactEvents_length hload, hload, hgot]
  rfl

theorem TransmitEvents.radioBrackets_append (h : TransmitEvents P p es) (fs : List Event) :
    radioBrackets none (es ++ fs) =
      [P.cmdFlushTx] :: (writeFirst P P.regTxPayload :: p.toList) :: radioBrackets none fs := by
  obtain ⟨r0, got, hgot, rfl⟩ := h
  rw [List.append_assoc, radioBrackets_xact (by rfl), List.append_assoc,
    radioBrackets_xact (by rw [hgot, List.length_cons, toList_length])]
  rfl

/-- R27: nothing of a poll. -/
theorem TransmitEvents.pollBrackets_append (h : TransmitEvents P p es) (fs : List Event) :
    pollBrackets none (es ++ fs) = pollBrackets none fs := by
  obtain ⟨r0, got, -, rfl⟩ := h
  rw [List.append_assoc, pollBrackets_xact, List.append_assoc, pollBrackets_xact]
  rfl

theorem pulseState_trace (s : State) : (pulseState s).trace = s.trace ++ pulseEvents := by
  simp [pulseState, ceLowState, ceHighState, pulseEvents]

theorem transmitState_trace (p : Bytes5) (s : State) :
    ∃ es, (transmitState p.toList s).trace = s.trace ++ es ∧ TransmitEvents s.cfg p es := by
  obtain ⟨r0, hflush⟩ := List.length_eq_one_iff.1 (xactBytes_length s.cfg.cmdFlushTx (.out []) s)
  refine ⟨_, ?_, r0, xactBytes (writeFirst s.cfg s.cfg.regTxPayload) (.out p.toList)
    (xactState s.cfg.cmdFlushTx (.out []) s), xactBytes_length _ _ _, rfl⟩
  rw [transmitState, pulseState_trace, xactState_trace, xactState_trace, hflush]
  simp [sentData]

/-! ## The events of FAULTCHECK (R203, R204) -/

/-- The events of one FAULTCHECK that samples `v`: the status read, and the recovery exactly if the bit is set. -/
def CheckEvents (P : Config) (v : Byte) (es : List Event) : Prop :=
  ∃ r0 got, got.length = 2 ∧
    es = xactEvents [P.regStatus, P.radioNop] [r0, v] ++
      (if v &&& P.statusMaxRtMask = 0#8 then []
        else .faultSig true :: (xactEvents [P.wOpcode ||| P.regStatus, P.statusIrqMask] got ++
          [.wait .tFaultHold, .faultSig false]))

theorem CheckEvents.length (h : CheckEvents P v es) :
    es.length = if v &&& P.statusMaxRtMask = 0#8 then 6 else 15 := by
  obtain ⟨r0, got, hgot, rfl⟩ := h
  split <;> simp [xactEvents_length, hgot]

theorem CheckEvents.radioBrackets_append (h : CheckEvents P v es) (fs : List Event) :
    radioBrackets none (es ++ fs) = [P.regStatus, P.radioNop] ::
      ((if v &&& P.statusMaxRtMask = 0#8 then [] else [[P.wOpcode ||| P.regStatus, P.statusIrqMask]]) ++
        radioBrackets none fs) := by
  obtain ⟨r0, got, hgot, rfl⟩ := h
  rw [List.append_assoc, radioBrackets_xact (by rfl)]
  split
  · rfl
  · rw [List.cons_append, List.append_assoc, radioBrackets, radioBrackets_xact (by rw [hgot]; rfl)]
    rfl

/-- R27: nothing of a poll. -/
theorem CheckEvents.pollBrackets_append (h : CheckEvents P v es) (fs : List Event) :
    pollBrackets none (es ++ fs) = pollBrackets none fs := by
  obtain ⟨r0, got, -, rfl⟩ := h
  rw [List.append_assoc, pollBrackets_xact]
  split
  · rfl
  · rw [List.cons_append, List.append_assoc, pollBrackets, pollBrackets_xact]
    rfl

/-- R203, R204: both branches at once, by the byte sampled. -/
theorem faultcheck_events (hP : s.cfg.wf) (hidle : idleLines s) (hdone : s.initDone = true) :
    ∃ t v es, exec .faultcheck s = .next t ∧ t.st = some v ∧ t.trace = s.trace ++ es ∧ CheckEvents s.cfg v es ∧
      t.outcome = (if v &&& s.cfg.statusMaxRtMask = 0#8 then .notFailed else .maxRt) ∧ checkFrame s t := by
  obtain ⟨v, hv⟩ := sampledStatus_isSome s
  obtain ⟨t, r0, got, hrun, hst, hgot, hclear, hset, hframe⟩ := faultcheck_of_sample hP hidle hdone hv
  refine ⟨t, v, _, hrun, hst, ?_, ⟨r0, got, hgot, rfl⟩, ?_, hframe⟩
  · split
    next hbit => rw [(hclear hbit).2, List.append_nil]
    next hbit => simp [(hset hbit).2]
  · split
    next hbit => exact (hclear hbit).1
    next hbit => exact (hset hbit).1

/-! ## The events of CYCLE (R207) -/

/-- The events of one CYCLE that receives `received`, sends `p` and samples `v`: poll, TRANSMIT, FAULTCHECK, wait. -/
def CycleEvents (P : Config) (received : List Byte) (p : Bytes5) (v : Byte) (es : List Event) : Prop :=
  ∃ sent checked, TransmitEvents P p sent ∧ CheckEvents P v checked ∧
    es = pollEvents received ++ (sent ++ (checked ++ [.wait .tCycle]))

section
variable {received : List Byte}

theorem CycleEvents.length (h : CycleEvents P received p v es) (h9 : received.length = 9) :
    es.length = if v &&& P.statusMaxRtMask = 0#8 then 50 else 59 := by
  obtain ⟨sent, checked, hsent, hchecked, rfl⟩ := h
  have hpoll : (pollEvents received).length = 20 := by
    rw [pollEvents, List.length_append, List.length_cons, exchangeEvents_length _ _ _ (by rw [h9]; rfl)]
    rfl
  rw [List.length_append, List.length_append, List.length_append, hpoll, hsent.length, hchecked.length]
  split <;> rfl

theorem CycleEvents.pollBrackets_eq (h : CycleEvents P received p v es) (h9 : received.length = 9) :
    pollBrackets none es = [received] := by
  obtain ⟨sent, checked, hsent, hchecked, rfl⟩ := h
  rw [pollBrackets_poll h9, hsent.pollBrackets_append, hchecked.pollBrackets_append]
  rfl

theorem CycleEvents.radioBrackets_eq (h : CycleEvents P received p v es) :
    radioBrackets none es =
      [[P.cmdFlushTx], writeFirst P P.regTxPayload :: p.toList, [P.regStatus, P.radioNop]] ++
        (if v &&& P.statusMaxRtMask = 0#8 then [] else [[P.wOpcode ||| P.regStatus, P.statusIrqMask]]) := by
  obtain ⟨sent, checked, hsent, hchecked, rfl⟩ := h
  rw [radioBrackets_poll, hsent.radioBrackets_append, hchecked.radioBrackets_append]
  simp [radioBrackets]

end

/-! ## The states of a CYCLE (R207) -/

/-- The frame packed from the next nine draws (R84, R201). -/
def polledFrame (s : State) : Bytes5 :=
  ⟨~~~(answerAt s 4), ~~~(answerAt s 3), ~~~(answerAt s 7), ~~~(answerAt s 8), 0#8⟩

theorem frameOf_buttonsOf (b1 b2 lx ly : Byte) : frameOf (buttonsOf b1 b2) lx ly = ⟨~~~b2, ~~~b1, lx, ly, 0#8⟩ := by
  rw [frameOf, lowByte, highByte, buttonsOf_eq_append, BitVec.extractLsb'_append_eq_left,
    BitVec.extractLsb'_append_eq_right, tfReserved]

/-- A CYCLE after its poll. -/
def polledState (s : State) : State := pollState { s with phase := .polling }

/-- After its PACK. -/
def framedState (s : State) : State := { polledState s with tf := some (polledFrame s) }

/-- At the start of TRANSMIT. -/
def packedState (s : State) : State := { framedState s with phase := .transmitting }

/-- After TRANSMIT, at the start of FAULTCHECK. -/
def checkingState (s : State) : State :=
  { transmitState (polledFrame s).toList (packedState s) with phase := .faultcheck }

/-- The nine bytes of the poll are the next nine draws, whatever the phase. -/
theorem polledState_cf (s : State) : (polledState s).cf = decodeFrame (answersFrom s 9) :=
  pollState_cf { s with phase := .polling }

theorem packFrame_polled (s : State) : packFrame (polledState s) = .ok (framedState s) :=
  packFrame_eq_ok.2 ⟨buttonsOf (answerAt s 3) (answerAt s 4), ~~~(answerAt s 7), ~~~(answerAt s 8),
    by rw [polledState_cf]; rfl, by rw [polledState_cf]; rfl, by rw [polledState_cf]; rfl,
    by rw [frameOf_buttonsOf]; rfl⟩

@[simp] theorem packedState_cfg (s : State) : (packedState s).cfg = s.cfg := by
  simp [packedState, framedState, polledState]

theorem packedState_readyTx (h : readyTx s) : readyTx (packedState s) := by
  obtain ⟨⟨hcsn, hce, -, hsig⟩, hdone, hrole⟩ := h
  refine ⟨⟨?_, ?_, ?_, ?_⟩, ?_, ?_⟩ <;> simp [packedState, framedState, polledState, *]

theorem checkingState_idleLines (h : readyTx s) : idleLines (checkingState s) := by
  obtain ⟨⟨-, -, hatt, hsig⟩, -, -⟩ := packedState_readyTx h
  refine ⟨?_, ?_, ?_, ?_⟩ <;> simp [checkingState, *]

/-- What a CYCLE has written when it comes to its FAULTCHECK. -/
theorem checkingState_written (s : State) :
    (checkingState s).cf = decodeFrame (answersFrom s 9) ∧ (checkingState s).tf = some (polledFrame s) := by
  simp [checkingState, packedState, framedState, polledState_cf]

/-- What it has left as it was. -/
theorem checkingState_frame (s : State) :
    (checkingState s).rxp = s.rxp ∧ (checkingState s).initDone = s.initDone ∧ (checkingState s).seq = s.seq ∧
      (checkingState s).ret = s.ret ∧ sameFixed s (checkingState s) := by
  refine ⟨?_, ?_, ?_, ?_, ?_, ?_, ?_⟩ <;> simp [checkingState, packedState, framedState, polledState]

theorem checkingState_trace (h : readyTx s) :
    ∃ sent, (checkingState s).trace = s.trace ++ (pollEvents (answersFrom s 9) ++ sent) ∧
      TransmitEvents s.cfg (polledFrame s) sent := by
  obtain ⟨⟨hcsn, -⟩, -⟩ := h
  have hpoll : (packedState s).trace = s.trace ++ pollEvents (answersFrom s 9) :=
    pollState_trace (s := { s with phase := .polling }) hcsn
  obtain ⟨sent, htrace, hsent⟩ := transmitState_trace (polledFrame s) (packedState s)
  refine ⟨sent, ?_, packedState_cfg s ▸ hsent⟩
  rw [← List.append_assoc, ← hpoll, ← htrace]
  rfl

/-- R207: a CYCLE is what its FAULTCHECK makes of the state after poll, PACK and TRANSMIT, and the wait. -/
theorem exec_cycle_of_check {t : State} (hP : s.cfg.wf) (h : readyTx s)
    (hcheck : exec .faultcheck (checkingState s) = .next t) :
    exec .cycle s = .next { waitCycle t with phase := .polling } := by
  obtain ⟨⟨hcsn', hce', hatt', -⟩, hdone', hrole'⟩ := packedState_readyTx h
  obtain ⟨⟨hcsn, -, hatt, -⟩, hdone, hrole⟩ := h
  have hpoll : poll { s with phase := .polling } = .ok (polledState s) :=
    poll_eq_ok.2 ⟨hcsn, hatt, rfl⟩
  have h5 : 5 ≤ (packedState s).cfg.nMax := by
    obtain ⟨-, -, -, -, -, h5⟩ := hP
    rwa [packedState_cfg]
  have hsend : transmitFrame (packedState s) = .ok (transmitState (polledFrame s).toList (packedState s)) :=
    (transmit_eq_ok h5).2 ⟨hdone', hrole', toList_length _, hcsn', hatt', hce', rfl⟩
  have hdecide : faultcheck (checkingState s) = .ok t := outcomeOfResult_eq_next.1 hcheck
  refine outcomeOfResult_eq_next.2 ?_
  rw [cycle, if_neg (by simp [hdone]), if_neg (by simp [hrole])]
  exact bind_eq_ok.2 ⟨_, hpoll, bind_eq_ok.2 ⟨_, packFrame_polled _, bind_eq_ok.2 ⟨_, hsend,
    bind_eq_ok.2 ⟨_, hdecide, rfl⟩⟩⟩⟩

/-! ## The register map over a CYCLE (R53, R55) -/

theorem radioEnable_rreg (n : Nat) {r : Radio} (h : hasWork P r = true) : (radioEnable P n r).rreg = r.rreg := by
  rw [radioEnable, if_neg (by simp [h])]
  split
  · rfl
  · split <;> rfl

/-- The enable pulse leaves the map alone when RADIO has something to do (R53). -/
theorem pulseState_rreg (hq : quiet s) (h : hasWork s.cfg s.radio = true) :
    (pulseState s).radio.rreg = s.radio.rreg := by
  have hpre := waitFor_quiet_radio .tTxPre hq
  rw [waitFor_radio] at hpre
  simp only [pulseState, ceLowState, ceHighState, waitFor_radio, emit_radio, foldl_radioAct_rreg, hpre]
  exact radioEnable_rreg _ h

/-- TRANSMIT from a quiet transmitter that is started: RADIO has the payload to send at its `Ce(1)` (R52, R53). -/
theorem transmitState_rreg (hP : s.cfg.wf) (hq : quiet s) (hstarted : chipStarted s.cfg s.radio = true)
    (htx : selectsTx s.cfg s.radio = true) (p : Bytes5) :
    (transmitState p.toList s).radio.rreg = s.radio.rreg := by
  have hflush := xactState_flush hq
  have hqflush : quiet (xactState s.cfg.cmdFlushTx (.out []) s) :=
    ⟨(xactState_ce _ _ s).trans hq.1, by rw [hflush]; exact hq.2⟩
  have hcfg : (xactState s.cfg.cmdFlushTx (.out []) s).cfg = s.cfg := xactState_cfg _ _ s
  have hload := xactState_payloadWrite (by rw [hcfg]; exact hP) hqflush p
  rw [hcfg, hflush] at hload
  rw [transmitState, pulseState_rreg, hload]
  · refine ⟨?_, by rw [hload]; exact hq.2⟩
    rw [xactState_ce]
    exact hqflush.1
  · rw [hasWork_eq, hload, xactState_cfg, hcfg]
    exact ⟨hstarted, .inr ⟨htx, List.cons_ne_nil _ _⟩⟩

/-- A quiet RADIO does not see the exchanges of a poll (R48). -/
theorem exchangeState_deselected_radio (T : TimeParam) (txs : List Byte) :
    ∀ s : State, s.csn = true → quiet s → (exchangeState T txs s).radio = s.radio := by
  induction txs with
  | nil => exact fun _ _ _ => rfl
  | cons tx txs ih =>
    intro s hcsn hq
    have hstep : (exchange tx (waitFor T s)).radio = s.radio := by
      rw [exchange_radio, waitFor_csn, hcsn, if_pos rfl, waitFor_quiet_radio T hq, waitFor_ce, hq.1,
        foldl_radioAct_quiet _ _ _ hq.2]
    rw [exchangeState_cons, ih (exchange tx (waitFor T s)) hcsn ⟨hq.1, by rw [hstep]; exact hq.2⟩, hstep]

theorem pollState_quiet_radio (hcsn : s.csn = true) (hq : quiet s) : (pollState s).radio = s.radio := by
  obtain ⟨hce, hair⟩ := hq
  have hassert : (attAssertState s).radio = s.radio := by
    simp only [attAssertState, emit_radio, hce]
    exact foldl_radioAct_quiet _ _ _ hair
  have hbytes := exchangeState_deselected_radio .tPadSettle pollSent (attAssertState s) hcsn
    ⟨hce, by rw [hassert]; exact hair⟩
  simp only [pollState, emit_radio, exchangeState_ce, exchangeState_cfg, hbytes, hassert]
  rw [show (attAssertState s).ce = false from hce]
  exact foldl_radioAct_quiet _ _ _ hair

/-- R207: RADIO's register map over a CYCLE up to its FAULTCHECK. -/
theorem checkingState_rreg (hP : s.cfg.wf) (hcsn : s.csn = true) (hq : quiet s)
    (hstarted : chipStarted s.cfg s.radio = true) (htx : selectsTx s.cfg s.radio = true) :
    (checkingState s).radio.rreg = s.radio.rreg := by
  have hradio : (packedState s).radio = s.radio := pollState_quiet_radio (s := { s with phase := .polling }) hcsn hq
  have hcfg := packedState_cfg s
  have hqpacked : quiet (packedState s) :=
    ⟨by simp [packedState, framedState, polledState, hq.1], by rw [hradio]; exact hq.2⟩
  have hmap := transmitState_rreg (s := packedState s) (by rw [hcfg]; exact hP) hqpacked
    (by rw [hcfg, hradio]; exact hstarted) (by rw [hcfg, hradio]; exact htx) (polledFrame s)
  rw [hradio] at hmap
  exact hmap

/-! ## CYCLE -/

theorem sameLines_of_idleLines {t : State} (h : idleLines s) (h' : idleLines t) : sameLines s t := by
  obtain ⟨hcsn, hce, hatt, hsig⟩ := h
  obtain ⟨hcsn', hce', hatt', hsig'⟩ := h'
  exact ⟨hcsn'.trans hcsn.symm, hce'.trans hce.symm, hatt'.trans hatt.symm, hsig'.trans hsig.symm⟩

/-- Settles O51: poll, PACK and TRANSMIT lead to a FAULTCHECK, whose two branches are the two lengths of the pass. -/
theorem cycleForwardsThePolledFrame : Obligations.CycleForwardsThePolledFrame := by
  intro s hP hready
  have ⟨hidle, hdone, _⟩ := hready
  obtain ⟨hcf, htf⟩ := checkingState_written s
  obtain ⟨hrxp, hinit, hseq, hret, hcfg, hirq, hin⟩ := checkingState_frame s
  obtain ⟨sent, htrace, hsent⟩ := checkingState_trace hready
  obtain ⟨t, v, checked, hcheck, hst, htrace', hchecked, hout, hcf', htf', hrxp', hinit', -, hseq', hret', -, -,
      ⟨hcfg', hirq', hin'⟩, hmem⟩ :=
    faultcheck_events (by rw [hcfg]; exact hP) (checkingState_idleLines hready) (hinit.trans hdone)
  rw [hcfg] at hchecked hout
  have hrun := exec_cycle_of_check hP hready hcheck
  have hevents : CycleEvents s.cfg (answersFrom s 9) (polledFrame s) v _ := ⟨sent, checked, hsent, hchecked, rfl⟩
  refine ⟨{ waitCycle t with phase := .polling }, _, answerAt s 0, answerAt s 1, answerAt s 2, answerAt s 3,
    answerAt s 4, answerAt s 5, answerAt s 6, answerAt s 7, answerAt s 8, v, hrun, ?_, answersFrom_nine s,
    hevents.pollBrackets_eq rfl, hevents.radioBrackets_eq, hevents.length rfl, htf'.trans htf, hst, hout, rfl,
    hcf'.trans hcf, hrxp'.trans hrxp, hinit'.trans hinit, hseq'.trans hseq, hret'.trans hret,
    sameLines_of_idleLines hidle (exec_keeps_idleLines rfl hrun hidle),
    ⟨hcfg'.trans hcfg, hirq'.trans hirq, hin'.trans hin⟩, fun hq hstarted htx a => ?_⟩
  · change t.trace ++ [.wait .tCycle] = _
    rw [htrace', htrace]
    simp only [List.append_assoc]
  · obtain ⟨hcsn, -⟩ := hidle
    have hwait : (waitCycle t).radio.rreg = t.radio.rreg := foldl_radioAct_rreg _ _ _ _
    change Memory.read (waitCycle t).radio.rreg a = _
    rw [hwait, hmem, checkingState_rreg hP hcsn hq hstarted htx]

end Sys2Proof.Encoding
end

section
/-! SUPPORT. The micro-operations (spec/40_primitives.md R100 to R110): what each leaves as it was, and the statements
that each completes where its guards pass. -/

namespace Sys2Proof.Micro

open Sys2Proof.Machine Sys2Proof.Safety Sys2Proof.Encoding

variable {s u : State}

/-! ## One event and the gap after it (R110) -/

/-- A micro-operation assigns lines and device state alone, which the frame does not name. -/
theorem microFrame_refl (s : State) : microFrame s s :=
  ⟨⟨rfl, rfl, rfl, rfl⟩, ⟨rfl, rfl, rfl, rfl⟩, rfl, rfl, rfl⟩

/-- Neither the event nor what RADIO does after it touches the block. -/
theorem emit_microFrame (e : Event) (h : microFrame s u) : microFrame s (emit e u) := h

theorem emit_rreg (e : Event) (u : State) : (emit e u).radio.rreg = u.radio.rreg :=
  foldl_radioAct_rreg _ _ _ _

theorem emit_sent (e : Event) (u : State) : (emit e u).radio.sent = u.radio.sent :=
  foldl_radioAct_sent _ _ _ _

/-- RADIO's register map after an event is the one before it (R53, R54). -/
theorem emit_sameMemory (e : Event) (h : u.radio.rreg = s.radio.rreg) : sameMemory s (emit e u) :=
  fun a => congrArg (Memory.read · a) ((emit_rreg e u).trans h)

/-! ## XFER (R100) -/

/-- The state after XFER: the exchange, its byte handed over (log 21). -/
def xferState (tx : Byte) (s : State) : State := { exchange tx s with ret := [receivedByte s] }

/-- Exactly one device is selected: the guards pass. -/
theorem exec_xfer (tx : Byte) (hsel : s.csn = s.att) : exec (.xfer tx) s = .next (xferState tx s) :=
  outcomeOfReturn_eq_next.2 ⟨_, _, map_eq_ok.2 ⟨_, xfer_eq_ok.2 ⟨hsel, rfl, rfl⟩, rfl⟩, rfl⟩

theorem receivedByte_selected (hcsn : s.csn = false) :
    receivedByte s = radioAnswer s.cfg s.radio (answerAt s 0) := by
  simp [receivedByte, hcsn, answerAt_zero]

theorem receivedByte_deselected (hcsn : s.csn = true) : receivedByte s = answerAt s 0 := by
  simp [receivedByte, hcsn, answerAt_zero]

/-- RADIO sees the byte while it is selected, and only then (R48). -/
theorem xferState_sent (tx : Byte) (s : State) :
    (xferState tx s).radio.sent = if s.csn then s.radio.sent else s.radio.sent ++ [tx] := by
  change (exchange tx s).radio.sent = _
  rw [exchange_radio, foldl_radioAct_sent]
  split <;> rfl

/-- PAD sees the byte while the handshake line is asserted, and only then (R56). -/
theorem xferState_padK (tx : Byte) (s : State) :
    (xferState tx s).padK = if s.att then padAdvance s.envDraws s.padK else s.padK :=
  exchange_padK tx s

theorem xferState_frame (tx : Byte) (s : State) :
    sameLines s (xferState tx s) ∧ microFrame s (xferState tx s) ∧ sameMemory s (xferState tx s) := by
  refine ⟨⟨rfl, rfl, rfl, rfl⟩, emit_microFrame (.xfer tx (receivedByte s)) (microFrame_refl s), fun a => ?_⟩
  change Memory.read (exchange tx s).radio.rreg a = _
  rw [exchange_radio, foldl_radioAct_rreg]
  split <;> rfl

/-- Settles O16: the byte goes to RADIO, which answers as it stands; PAD is not there. -/
theorem xferWithRadioCompletes : Obligations.XferWithRadioCompletes := by
  intro tx s hcsn hatt
  refine ⟨xferState tx s, receivedByte s, exec_xfer tx (hcsn.trans hatt.symm), receivedByte_selected hcsn, rfl,
    exchange_trace tx s, ?_, ?_, xferState_frame tx s⟩
  · rw [xferState_sent, hcsn, if_neg Bool.false_ne_true]
  · rw [xferState_padK, hatt, if_neg Bool.false_ne_true]

/-- Settles O17: the byte goes to PAD, which answers a draw and counts it; RADIO is not there. -/
theorem xferWithPadCompletes : Obligations.XferWithPadCompletes := by
  intro tx s hcsn hatt
  refine ⟨xferState tx s, receivedByte s, exec_xfer tx (hcsn.trans hatt.symm), receivedByte_deselected hcsn, rfl,
    exchange_trace tx s, ?_, fun hk => ?_, xferState_frame tx s⟩
  · rw [xferState_sent, hcsn, if_pos rfl]
  · rw [xferState_padK, hatt, if_pos rfl, padAdvance, if_pos hk]

/-! ## CSN_ENABLE and CSN_DISABLE (R102, R103) -/

/-- Settles O20: RADIO begins a transaction, of which it has seen no byte (R48). -/
theorem csnEnableSelects : Obligations.CsnEnableSelects := by
  intro s hcsn hatt
  exact ⟨driveCsnLow s, outcomeOfResult_eq_next.2 (csnEnable_eq_ok.2 ⟨hatt, hcsn, rfl⟩), driveCsnLow_csn s,
    driveCsnLow_trace s, emit_sent _ _, driveCsnLow_ce s, driveCsnLow_att s, driveCsnLow_faultSig s, driveCsnLow_ret s,
    driveCsnLow_padK s, emit_microFrame _ (microFrame_refl s), emit_sameMemory _ rfl⟩

/-- Settles O21: RADIO takes the transaction's effect (R60) and holds no byte of it any longer. -/
theorem csnDisableDeselects : Obligations.CsnDisableDeselects := by
  intro s hcsn
  exact ⟨driveCsnHigh s, outcomeOfResult_eq_next.2 (csnDisable_eq_ok.2 ⟨hcsn, rfl⟩), driveCsnHigh_csn s,
    driveCsnHigh_trace s, (emit_sent _ _).trans (radioDeselect_sent _ _ _), driveCsnHigh_ce s, driveCsnHigh_att s,
    driveCsnHigh_faultSig s, driveCsnHigh_ret s, driveCsnHigh_padK s, emit_microFrame _ (microFrame_refl s)⟩

/-! ## CE_HIGH and CE_LOW (R104, R105) -/

/-- Settles O23: a RADIO with work starts an attempt or listens, and its register map is no part of either (R53, R54). -/
theorem ceHighAsserts : Obligations.CeHighAsserts := by
  intro s hce hcsn
  refine ⟨ceHighState s, outcomeOfResult_eq_next.2 (ceHigh_eq_ok.2 ⟨hce, hcsn, rfl⟩), rfl, emit_trace _ _, rfl, rfl, rfl,
    rfl, rfl, emit_microFrame _ (microFrame_refl s), fun hstarted hrole => emit_sameMemory _ ?_⟩
  exact radioEnable_rreg s.envDraws (hasWork_eq.2 ⟨hstarted, hrole⟩)

/-- Settles O26: the line alone is assigned. -/
theorem ceLowDeasserts : Obligations.CeLowDeasserts := by
  intro s hce
  exact ⟨ceLowState s, outcomeOfResult_eq_next.2 (ceLow_eq_ok.2 ⟨hce, rfl⟩), rfl, emit_trace _ _, rfl, rfl, rfl, rfl, rfl,
    emit_microFrame _ (microFrame_refl s), emit_sameMemory _ rfl⟩

/-! ## ATT_ASSERT and ATT_RELEASE (R106, R107) -/

/-- Settles O27: the line is assigned, and PAD's position at the begin of the exchange (R56). -/
theorem handshakeLineBracketsTheExchange : Obligations.HandshakeLineBracketsTheExchange := by
  refine fun s => ⟨fun hcsn hatt => ?_, fun hatt => ?_⟩
  · exact ⟨attAssertState s, outcomeOfResult_eq_next.2 (attAssert_eq_ok.2 ⟨hcsn, hatt, rfl⟩), rfl, rfl, emit_trace _ _,
      rfl, rfl, rfl, rfl, emit_microFrame _ (microFrame_refl s), emit_sameMemory _ rfl⟩
  · exact ⟨_, outcomeOfResult_eq_next.2 (attRelease_eq_ok.2 ⟨hatt, rfl⟩), rfl, rfl, emit_trace _ _,
      rfl, rfl, rfl, rfl, emit_microFrame _ (microFrame_refl s), emit_sameMemory _ rfl⟩

/-! ## FAULT_ON and FAULT_OFF (R108, R109) -/

/-- Settles O28: neither operation has a guard, so each answers in every state. -/
theorem diagnosticSignalIsDriven : Obligations.DiagnosticSignalIsDriven := by
  refine fun s => ⟨⟨faultOn s, rfl, ?_⟩, ⟨faultOff s, rfl, ?_⟩⟩
  · exact ⟨faultOn_faultSig s, faultOn_trace s, faultOn_csn s, faultOn_ce s, faultOn_att s, faultOn_ret s,
      faultOn_padK s, emit_microFrame _ (microFrame_refl s), emit_sameMemory _ rfl⟩
  · exact ⟨faultOff_faultSig s, faultOff_trace s, faultOff_csn s, faultOff_ce s, faultOff_att s, faultOff_ret s,
      faultOff_padK s, emit_microFrame _ (microFrame_refl s), emit_sameMemory _ rfl⟩

end Sys2Proof.Micro
end

section
/-! SUPPORT. The bus discipline over an operation (spec/70_reset_and_hazards.md R270 to R273): the events between two
states as a passage of the monitor between their lines, what each operation adds to it, and the statement about every
operation. -/

namespace Sys2Proof.Discipline

open Sys2Proof.Machine Sys2Proof.Safety Sys2Proof.Scope Sys2Proof.Invariants Sys2Proof.Device Sys2Proof.Encoding

variable {s t u : State}

/-! ## Passages of the monitor -/

/-- What the monitor knows at a state: its lines, and the wait just done, if any. -/
def monitorAt (s : State) (o : Option TimeParam) : Monitor := ⟨s.csn, s.ce, s.att, o⟩

/-- The events from `s` to `t` take the monitor from the lines of `s` to those of `t`, whatever was waited before. -/
def KeepsDiscipline (s t : State) : Prop :=
  ∃ es, t.trace = s.trace ++ es ∧ ∀ o, ∃ o', monitorRun (monitorAt s o) es = some (monitorAt t o')

/-- A passage between idle lines is disciplined. -/
theorem KeepsDiscipline.disciplined (h : KeepsDiscipline s t) (hs : idleLines s) (ht : idleLines t) :
    ∃ es, t.trace = s.trace ++ es ∧ disciplined es := by
  obtain ⟨es, htrace, hrun⟩ := h
  obtain ⟨hcsn, hce, hatt, -⟩ := hs
  obtain ⟨hcsn', hce', hatt', -⟩ := ht
  obtain ⟨o, hend⟩ := hrun none
  have hstart : monitorAt s none = Monitor.idle := by rw [monitorAt, hcsn, hce, hatt, Monitor.idle]
  exact ⟨es, htrace, monitorAt t o, hstart ▸ hend, hcsn', hce', hatt'⟩

theorem KeepsDiscipline.trans (h : KeepsDiscipline s t) (h' : KeepsDiscipline t u) : KeepsDiscipline s u := by
  obtain ⟨es, hes, hrun⟩ := h
  obtain ⟨fs, hfs, hrun'⟩ := h'
  refine ⟨es ++ fs, by rw [hfs, hes, List.append_assoc], fun o => ?_⟩
  obtain ⟨o1, h1⟩ := hrun o
  obtain ⟨o2, h2⟩ := hrun' o1
  exact ⟨o2, by rw [monitorRun_append, h1]; exact h2⟩

/-- A write of registers adds no event and moves no line. -/
theorem KeepsDiscipline.of_silent (htrace : t.trace = s.trace := by rfl) (hcsn : t.csn = s.csn := by rfl)
    (hce : t.ce = s.ce := by rfl) (hatt : t.att = s.att := by rfl) : KeepsDiscipline s t :=
  ⟨[], by rw [htrace, List.append_nil], fun o => ⟨o, by rw [monitorAt, monitorAt, hcsn, hce, hatt]; rfl⟩⟩

theorem KeepsDiscipline.of_event {e : Event} (htrace : t.trace = s.trace ++ [e])
    (hstep : ∀ o, ∃ o', monitorStep (monitorAt s o) e = some (monitorAt t o')) : KeepsDiscipline s t := by
  refine ⟨[e], htrace, fun o => ?_⟩
  obtain ⟨o', ho⟩ := hstep o
  exact ⟨o', by rw [monitorRun, ho]; rfl⟩

/-! ## Single events -/

theorem waitFor_keepsDiscipline (T : TimeParam) (s : State) : KeepsDiscipline s (waitFor T s) :=
  .of_event (waitFor_trace T s) fun _ => ⟨some T, rfl⟩

theorem faultOn_keepsDiscipline (s : State) : KeepsDiscipline s (faultOn s) :=
  .of_event (faultOn_trace s) fun _ => ⟨none, rfl⟩

theorem faultOff_keepsDiscipline (s : State) : KeepsDiscipline s (faultOff s) :=
  .of_event (faultOff_trace s) fun _ => ⟨none, rfl⟩

/-- R104: the enable line rises from low, outside a transaction. -/
theorem ceHigh_keepsDiscipline (h : ceHigh s = .ok t) : KeepsDiscipline s t := by
  obtain ⟨hce, hcsn, rfl⟩ := ceHigh_eq_ok.1 h
  exact .of_event (emit_trace _ _) fun o => ⟨none, by simp [monitorAt, monitorStep, hce, hcsn]⟩

/-- R105: the enable line falls from high. -/
theorem ceLow_keepsDiscipline (h : ceLow s = .ok t) : KeepsDiscipline s t := by
  obtain ⟨hce, rfl⟩ := ceLow_eq_ok.1 h
  exact .of_event (emit_trace _ _) fun o => ⟨none, by simp [monitorAt, monitorStep, hce]⟩

/-! ## Brackets -/

/-- R125, R270, R272: one whole `csn` bracket, each byte after its settling wait. -/
theorem radioXact_keepsDiscipline {first : Byte} {arg : XactArg} {res : List Byte}
    (h : radioXact first arg s = .ok (res, t)) : KeepsDiscipline s t := by
  obtain ⟨-, hcsn, hatt, -, rfl⟩ := radioXact_eq_ok.1 h
  refine ⟨_, xactState_trace first arg s, fun o => ⟨none, ?_⟩⟩
  rw [monitorAt, monitorAt, xactState_csn, xactState_ce, xactState_att, hcsn, hatt]
  exact monitorRun_xact _ _ s.ce o

/-- R271, R272: one whole `att` bracket, each byte after its settling wait. -/
theorem poll_keepsDiscipline (h : poll s = .ok t) : KeepsDiscipline s t := by
  obtain ⟨hcsn, hatt, rfl⟩ := poll_eq_ok.1 h
  refine ⟨_, pollState_trace hcsn, fun o => ⟨none, ?_⟩⟩
  rw [monitorAt, monitorAt, pollState_csn, pollState_ce, pollState_att, hcsn, hatt]
  exact monitorRun_poll _ s.ce o

/-! ## Register transfers and recovery -/

theorem regWrite_keepsDiscipline {a : Byte} {data : List Byte} (h : regWrite a data s = .ok t) :
    KeepsDiscipline s t := by
  obtain ⟨-, hlen, hcsn, hatt, rfl⟩ := regWrite_eq_ok.1 h
  exact radioXact_keepsDiscipline (radioXact_idle _ (.out data) hcsn hatt hlen)

theorem regRead_keepsDiscipline {a : Byte} {n : Nat} {res : List Byte} (h : regRead a n s = .ok (res, t)) :
    KeepsDiscipline s t := by
  obtain ⟨-, hlen, hcsn, hatt, -, rfl⟩ := regRead_eq_ok.1 h
  exact radioXact_keepsDiscipline (radioXact_idle _ (.inp n) hcsn hatt hlen)

theorem statusReset_keepsDiscipline (h : statusReset s = .ok t) : KeepsDiscipline s t := regWrite_keepsDiscipline h

theorem statusRead_keepsDiscipline (h : statusRead s = .ok t) : KeepsDiscipline s t := by
  obtain ⟨⟨res, s1⟩, hread, h⟩ := bind_eq_ok.1 h
  cases h
  exact (regRead_keepsDiscipline hread).trans .of_silent

theorem recovery_keepsDiscipline (h : recovery s = .ok t) : KeepsDiscipline s t := by
  obtain ⟨s1, hreset, h⟩ := bind_eq_ok.1 h
  cases h
  exact ((faultOn_keepsDiscipline s).trans (statusReset_keepsDiscipline hreset)).trans
    ((waitFor_keepsDiscipline .tFaultHold s1).trans (faultOff_keepsDiscipline _))

theorem handleStatus_keepsDiscipline {b : Byte} (h : handleStatus b s = .ok t) : KeepsDiscipline s t := by
  have hclassified : KeepsDiscipline s { s with outcome := outcomeOf s.cfg b } := .of_silent
  unfold handleStatus at h
  split at h
  · exact hclassified.trans (recovery_keepsDiscipline h)
  · cases h
    exact hclassified

/-! ## Initialization, transmit and receive -/

theorem regWriteAll_keepsDiscipline (ws : List (Byte × List Byte)) :
    ∀ {s t : State}, regWriteAll ws s = .ok t → KeepsDiscipline s t := by
  induction ws with
  | nil =>
    intro s t h
    cases h
    exact .of_silent
  | cons w ws ih =>
    intro s t h
    obtain ⟨s1, hwrite, h⟩ := bind_eq_ok.1 h
    exact (regWrite_keepsDiscipline hwrite).trans (ih h)

theorem initRadio_keepsDiscipline (h : initRadio s = .ok t) : KeepsDiscipline s t := by
  obtain ⟨-, h⟩ := guard_eq_ok.1 h
  obtain ⟨s1, hwrites, h⟩ := bind_eq_ok.1 h
  cases h
  exact ((regWriteAll_keepsDiscipline _ hwrites).trans (waitFor_keepsDiscipline .tInitSettle s1)).trans .of_silent

theorem flushTx_keepsDiscipline (h : flushTx s = .ok t) : KeepsDiscipline s t := by
  obtain ⟨⟨res, s1⟩, hx, h⟩ := bind_eq_ok.1 h
  cases h
  exact radioXact_keepsDiscipline hx

theorem wTxPayload_keepsDiscipline {p : List Byte} (h : wTxPayload p s = .ok t) : KeepsDiscipline s t := by
  unfold wTxPayload at h
  split at h
  · exact regWrite_keepsDiscipline h
  · cases h

theorem enablePulse_keepsDiscipline (h : enablePulse s = .ok t) : KeepsDiscipline s t := by
  obtain ⟨s1, hhigh, h⟩ := bind_eq_ok.1 h
  obtain ⟨s2, hlow, h⟩ := bind_eq_ok.1 h
  cases h
  have hraised := (waitFor_keepsDiscipline .tTxPre s).trans (ceHigh_keepsDiscipline hhigh)
  have hlowered := (waitFor_keepsDiscipline .tCePulse s1).trans (ceLow_keepsDiscipline hlow)
  exact (hraised.trans hlowered).trans (waitFor_keepsDiscipline .tTxPost s2)

theorem transmit_keepsDiscipline {p : List Byte} (h : transmit p s = .ok t) : KeepsDiscipline s t := by
  obtain ⟨-, h⟩ := guard_eq_ok.1 h
  obtain ⟨-, h⟩ := guard_eq_ok.1 h
  obtain ⟨-, h⟩ := guard_eq_ok.1 h
  obtain ⟨s1, hflush, h⟩ := bind_eq_ok.1 h
  obtain ⟨s2, hload, h⟩ := bind_eq_ok.1 h
  exact (flushTx_keepsDiscipline hflush).trans
    ((wTxPayload_keepsDiscipline hload).trans (enablePulse_keepsDiscipline h))

theorem rRxPayload_keepsDiscipline (h : rRxPayload s = .ok t) : KeepsDiscipline s t := by
  obtain ⟨⟨res, s1⟩, hread, h⟩ := bind_eq_ok.1 h
  cases h
  exact (regRead_keepsDiscipline hread).trans .of_silent

theorem receive_keepsDiscipline (h : receive s = .ok t) : KeepsDiscipline s t := by
  obtain ⟨-, h⟩ := guard_eq_ok.1 h
  obtain ⟨-, h⟩ := guard_eq_ok.1 h
  obtain ⟨s1, hhigh, h⟩ := bind_eq_ok.1 h
  obtain ⟨s2, hlow, h⟩ := bind_eq_ok.1 h
  obtain ⟨s3, hread, h⟩ := bind_eq_ok.1 h
  have hlistened := (ceHigh_keepsDiscipline hhigh).trans
    ((waitFor_keepsDiscipline .tRxListen s1).trans (ceLow_keepsDiscipline hlow))
  exact hlistened.trans ((rRxPayload_keepsDiscipline hread).trans (statusReset_keepsDiscipline h))

/-! ## The bridge loop -/

theorem packFrame_keepsDiscipline (h : packFrame s = .ok t) : KeepsDiscipline s t := by
  obtain ⟨b, lx, ly, -, -, -, rfl⟩ := packFrame_eq_ok.1 h
  exact .of_silent

theorem faultcheck_keepsDiscipline (h : faultcheck s = .ok t) : KeepsDiscipline s t := by
  obtain ⟨-, h⟩ := guard_eq_ok.1 h
  obtain ⟨s1, hread, h⟩ := bind_eq_ok.1 h
  split at h
  · exact (statusRead_keepsDiscipline hread).trans (handleStatus_keepsDiscipline h)
  · cases h

theorem transmitFrame_keepsDiscipline (h : transmitFrame s = .ok t) : KeepsDiscipline s t := by
  unfold transmitFrame at h
  split at h
  · exact transmit_keepsDiscipline h
  · cases h

/-- CYCLE and RUN write `phase` before an operation they call (R207, R208). -/
theorem KeepsDiscipline.after_phase {x : Phase} (h : KeepsDiscipline { s with phase := x } t) : KeepsDiscipline s t :=
  KeepsDiscipline.trans .of_silent h

theorem cycle_keepsDiscipline (h : cycle s = .ok t) : KeepsDiscipline s t := by
  obtain ⟨-, h⟩ := guard_eq_ok.1 h
  obtain ⟨-, h⟩ := guard_eq_ok.1 h
  obtain ⟨s1, hpoll, h⟩ := bind_eq_ok.1 h
  obtain ⟨s2, hpack, h⟩ := bind_eq_ok.1 h
  obtain ⟨s3, hsend, h⟩ := bind_eq_ok.1 h
  obtain ⟨s4, hcheck, h⟩ := bind_eq_ok.1 h
  cases h
  have hpacked : KeepsDiscipline s s2 :=
    (poll_keepsDiscipline hpoll).after_phase.trans (packFrame_keepsDiscipline hpack)
  have hsent : KeepsDiscipline s2 s3 := (transmitFrame_keepsDiscipline hsend).after_phase
  have hchecked : KeepsDiscipline s3 s4 := (faultcheck_keepsDiscipline hcheck).after_phase
  exact ((hpacked.trans (hsent.trans hchecked)).trans (waitFor_keepsDiscipline .tCycle s4)).trans .of_silent

theorem runProgram_keepsDiscipline (h : runProgram s = .ok t) : KeepsDiscipline s t := by
  obtain ⟨-, h⟩ := guard_eq_ok.1 h
  obtain ⟨s1, hinit, h⟩ := bind_eq_ok.1 h
  cases h
  exact (initRadio_keepsDiscipline hinit).after_phase.trans .of_silent

/-! ## Instructions -/

theorem keepsDiscipline_of_result {x : Result State} (h : outcomeOfResult x = .next t)
    (hx : x = .ok t → KeepsDiscipline s t) : KeepsDiscipline s t :=
  hx (outcomeOfResult_eq_next.1 h)

/-- An operation whose bytes go to whoever requested it (log 21). -/
theorem keepsDiscipline_of_return {x : Result (List Byte × State)} (h : outcomeOfReturn x = .next t)
    (hx : ∀ {bytes u}, x = .ok (bytes, u) → KeepsDiscipline s u) : KeepsDiscipline s t := by
  obtain ⟨bytes, u, hxu, rfl⟩ := outcomeOfReturn_eq_next.1 h
  exact (hx hxu).trans .of_silent

theorem execRadioXact_keepsDiscipline {first : Byte} {arg : XactArg} (h : execRadioXact first arg s = .next t) :
    KeepsDiscipline s t := by
  cases arg with
  | out data =>
    obtain ⟨res, hx⟩ := map_snd_eq_ok.1 (outcomeOfResult_eq_next.1 h)
    exact radioXact_keepsDiscipline hx
  | inp n => exact keepsDiscipline_of_return h radioXact_keepsDiscipline

/-- R100: from idle lines a controller row stops with Fault(NoTarget), since no device is selected (log 18). -/
theorem padExchange_idle (k : Nat) (hs : idleLines s) : padExchange k s = .error (.fault .noTarget) := by
  obtain ⟨hcsn, -, hatt, -⟩ := hs
  simp [padExchange, xfer, hcsn, hatt]

theorem padRow_dropped_idle (k : Nat) (hs : idleLines s) :
    outcomeOfResult ((padExchange k s).map Prod.snd) = .fault .noTarget := by
  rw [padExchange_idle k hs]
  rfl

theorem padRow_captured_idle (k : Nat) (hs : idleLines s) : outcomeOfReturn (padCapture k s) = .fault .noTarget := by
  rw [padCapture, padExchange_idle k hs]
  rfl

/-- From idle lines every operation that answers a next state keeps the discipline: it is made of whole brackets, waits
and moves of the enable line and the diagnostic signal. -/
theorem exec_keepsDiscipline (hs : idleLines s) :
    ∀ {i : Instr}, isMicro i = false → exec i s = .next t → KeepsDiscipline s t
  | .regRead _ _, _, h => keepsDiscipline_of_return h regRead_keepsDiscipline
  | .regWrite _ _, _, h => keepsDiscipline_of_result h regWrite_keepsDiscipline
  | .statusReset, _, h => keepsDiscipline_of_result h statusReset_keepsDiscipline
  | .statusRead, _, h => keepsDiscipline_of_result h statusRead_keepsDiscipline
  | .init, _, h => keepsDiscipline_of_result h initRadio_keepsDiscipline
  | .flushTx, _, h => keepsDiscipline_of_result h flushTx_keepsDiscipline
  | .wTxPayload _, _, h => keepsDiscipline_of_result h wTxPayload_keepsDiscipline
  | .transmit _, _, h => keepsDiscipline_of_result h transmit_keepsDiscipline
  | .rRxPayload, _, h => keepsDiscipline_of_result h rRxPayload_keepsDiscipline
  | .receive, _, h => keepsDiscipline_of_result h receive_keepsDiscipline
  | .poll, _, h => keepsDiscipline_of_result h poll_keepsDiscipline
  | .pack, _, h => keepsDiscipline_of_result h packFrame_keepsDiscipline
  | .faultcheck, _, h => keepsDiscipline_of_result h faultcheck_keepsDiscipline
  | .waitCycle, _, h => by
    cases h
    exact waitFor_keepsDiscipline .tCycle s
  | .cycle, _, h => keepsDiscipline_of_result h cycle_keepsDiscipline
  | .run, _, h => keepsDiscipline_of_result h runProgram_keepsDiscipline
  | .radioXact _ _, _, h => execRadioXact_keepsDiscipline h
  | .radioRRegister a n, _, h =>
    keepsDiscipline_of_return ((exec_radioRRegister a n s).symm.trans h) regRead_keepsDiscipline
  | .radioWRegister a data, _, h =>
    keepsDiscipline_of_result ((exec_radioWRegister a data s).symm.trans h) regWrite_keepsDiscipline
  | .radioFlushTx, _, h => keepsDiscipline_of_result ((exec_radioFlushTx s).symm.trans h) flushTx_keepsDiscipline
  | .radioWTxPayload p, _, h =>
    keepsDiscipline_of_result ((exec_radioWTxPayload p s).symm.trans h) wTxPayload_keepsDiscipline
  | .radioRRxPayload, _, h =>
    keepsDiscipline_of_result ((exec_radioRRxPayload s).symm.trans h) rRxPayload_keepsDiscipline
  | .padPollCmd, _, h => nomatch (padRow_dropped_idle 0 hs).symm.trans h
  | .padReadyCmd, _, h => nomatch (padRow_captured_idle 1 hs).symm.trans h
  | .padFill, _, h => nomatch (padRow_dropped_idle 2 hs).symm.trans h
  | .padNop f, _, h => nomatch (padRow_captured_idle (padFieldPosition f) hs).symm.trans h
  | .tframe _ _ _ _, _, h => keepsDiscipline_of_result h wTxPayload_keepsDiscipline
  | .statusByte b, _, h => by
    have hgiven : KeepsDiscipline s (giveDataByte b s) := .of_silent
    exact keepsDiscipline_of_result h fun hx => hgiven.trans (faultcheck_keepsDiscipline hx)

/-- Settles O11: the events of an operation are a passage of the monitor, and its lines are idle at both ends. -/
theorem operationsKeepTheBusDiscipline : Obligations.OperationsKeepTheBusDiscipline := by
  intro i s t hmicro hs h
  exact (exec_keepsDiscipline hs hmicro h).disciplined hs (exec_keeps_idleLines hmicro h hs)

end Sys2Proof.Discipline
end

section
/-! SUPPORT. The transaction as an instruction, and the status operations (spec/41_radio_register.md R120, R123, R124):
the one bracket of each and what it leaves as it was. -/

namespace Sys2Proof.Discipline

open Sys2Proof.Machine Sys2Proof.Safety Sys2Proof.Device

variable {s : State}

/-! ## RADIO_XACT (R120) -/

theorem exec_radioXact_out {first : Byte} {data : List Byte} (hcsn : s.csn = true) (hatt : s.att = false)
    (hlen : data.length ≤ s.cfg.nMax) :
    exec (.radioXact first (.out data)) s = .next (xactState first (.out data) s) :=
  outcomeOfResult_eq_next.2 (map_snd_eq_ok.2 ⟨_, radioXact_idle first (.out data) hcsn hatt hlen⟩)

theorem exec_radioXact_inp {first : Byte} {n : Nat} (hcsn : s.csn = true) (hatt : s.att = false)
    (hlen : n ≤ s.cfg.nMax) :
    exec (.radioXact first (.inp n)) s =
      .next { xactState first (.inp n) s with ret := (xactBytes first (.inp n) s).tail } :=
  outcomeOfReturn_eq_next.2 ⟨_, _, radioXact_idle first (.inp n) hcsn hatt hlen, rfl⟩

theorem xactBytes_length_eq (first : Byte) (arg : XactArg) (s : State) :
    (xactBytes first arg s).length = arg.len + 1 := by
  rw [xactBytes_length, sentData_length]

/-- R120: two events for each of the n + 1 bytes, and two for the bracket. -/
theorem xactEvents_length_eq (first : Byte) (arg : XactArg) (s : State) :
    (xactEvents (first :: sentData s.cfg arg) (xactBytes first arg s)).length = 2 * arg.len + 4 := by
  have hbytes : (first :: sentData s.cfg arg).length = (xactBytes first arg s).length :=
    (xactBytes_length first arg s).symm
  rw [xactEvents_length hbytes, List.length_cons, sentData_length]
  omega

/-- Settles O30: in either direction the one transaction; only on IN are its data bytes handed over. -/
theorem radioXactIsOneBracket : Obligations.RadioXactIsOneBracket := by
  intro first arg s hcsn hatt hlen
  have hgot := xactBytes_length_eq first arg s
  have htrace := xactState_trace first arg s
  have hevents := xactEvents_length_eq first arg s
  have hpad := xactState_padK first arg s hatt
  have hlines := xactState_sameLines first arg hcsn
  have hframe := xactState_microFrame first arg s
  cases arg with
  | out data =>
    exact ⟨_, _, exec_radioXact_out hcsn hatt hlen, hgot, htrace, hevents, fun n h => (nomatch h),
      fun _ _ => xactState_ret _ _ s, hpad, hlines, hframe⟩
  | inp n =>
    exact ⟨_, _, exec_radioXact_inp hcsn hatt hlen, hgot, htrace, hevents, fun _ _ => rfl, fun data h => (nomatch h),
      hpad, hlines, hframe⟩

/-! ## STATUS_RESET and STATUS_READ (R123, R124) -/

/-- Settles O36: the transaction of one write, whose effect is on the flags alone, even with an attempt pending. -/
theorem statusResetIsOneWrite : Obligations.StatusResetIsOneWrite := by
  intro s hP hcsn hatt
  refine ⟨statusResetState s, xactBytes (writeFirst s.cfg s.cfg.regStatus) (.out [s.cfg.statusIrqMask]) s,
    exec_statusReset hP hcsn hatt, xactBytes_length_eq _ _ s, xactState_trace _ _ s, statusResetState_ret s,
    xactState_padK _ _ s hatt, xactState_sameLines _ _ hcsn, xactState_microFrame _ _ s, fun a => ?_⟩
  rw [statusResetState_rreg hP]

/-- What the status read leaves as it was besides the data registers (R124). -/
theorem statusReadState_frame (hcsn : s.csn = true) :
    sameLines s (statusReadState s) ∧ sameControl s (statusReadState s) ∧ sameFixed s (statusReadState s) := by
  refine ⟨⟨?_, ?_, ?_, ?_⟩, ⟨?_, ?_, ?_, ?_⟩, ?_, ?_, ?_⟩ <;> simp [hcsn]

/-- Settles O38: the byte in `st` is the second of the bracket, that of the data exchange (D14). -/
theorem statusReadTakesTheDataByte : Obligations.StatusReadTakesTheDataByte := by
  intro s hP hcsn hatt
  obtain ⟨b, hb⟩ := sampledStatus_isSome s
  obtain ⟨r0, htrace⟩ := statusReadState_trace_eq hb
  have ⟨hlines, hcontrol, hfixed⟩ := statusReadState_frame hcsn
  exact ⟨statusReadState s, r0, b, exec_statusRead hP hcsn hatt, (statusReadState_st s).trans hb, htrace,
    statusReadState_cf s, statusReadState_tf s, statusReadState_rxp s, statusReadState_ret s,
    statusReadState_padK s hatt, hlines, hcontrol, hfixed, fun a => by rw [statusReadState_rreg hP]⟩

end Sys2Proof.Discipline
end

section
/-! SUPPORT. TRANSMIT and RECEIVE (spec/43_radio_txrx.md R162, R166): the events of each, what it leaves of the block,
and the radio's register map over it. -/

namespace Sys2Proof.TxRx

open Sys2Proof.Machine Sys2Proof.Safety Sys2Proof.Invariants Sys2Proof.Device Sys2Proof.Encoding Sys2Proof.Discipline

variable {s u t : State} {P : Config} {r : Radio}

/-! ## TRANSMIT (R162) -/

theorem pulseState_padK (s : State) : (pulseState s).padK = s.padK := by simp [pulseState, ceLowState, ceHighState]

theorem transmitState_padK (p : List Byte) (hatt : s.att = false) : (transmitState p s).padK = s.padK := by
  have hflush : (xactState s.cfg.cmdFlushTx (.out []) s).att = false := (xactState_att _ _ s).trans hatt
  rw [transmitState, pulseState_padK, xactState_padK _ _ _ hflush, xactState_padK _ _ _ hatt]

theorem transmitState_microFrame (p : List Byte) (s : State) : microFrame s (transmitState p s) :=
  ⟨⟨by simp, by simp, by simp, by simp⟩, ⟨by simp, by simp, by simp, by simp⟩, by simp, by simp, by simp⟩

theorem transmitState_idleLines (p : List Byte) (h : idleLines s) : idleLines (transmitState p s) := by
  obtain ⟨-, -, hatt, hsig⟩ := h
  exact ⟨transmitState_csn p s, transmitState_ce p s, (transmitState_att p s).trans hatt,
    (transmitState_faultSig p s).trans hsig⟩

theorem exec_transmit (p : Bytes5) (hP : s.cfg.wf) (h : readyTx s) :
    exec (.transmit p.toList) s = .next (transmitState p.toList s) := by
  obtain ⟨⟨hcsn, hce, hatt, -⟩, hdone, hrole⟩ := h
  obtain ⟨-, -, -, -, -, h5⟩ := hP
  exact outcomeOfResult_eq_next.2 ((transmit_eq_ok h5).2 ⟨hdone, hrole, toList_length p, hcsn, hatt, hce, rfl⟩)

/-- Settles O44: the two transactions and the pulse; the payload just queued is what a quiet RADIO has to send at its
`Ce(1)`. -/
theorem transmitFlushesLoadsAndPulses : Obligations.TransmitFlushesLoadsAndPulses := by
  intro p s hP hready
  have ⟨hidle, _, _⟩ := hready
  have ⟨_, _, hatt, _⟩ := hidle
  obtain ⟨es, htrace, hevents⟩ := transmitState_trace p s
  have hlength := hevents.length
  obtain ⟨r0, got, hgot, rfl⟩ := hevents
  refine ⟨transmitState p.toList s, r0, got, _, exec_transmit p hP hready, hgot, htrace, ?_, hlength,
    transmitState_ret _ s, transmitState_padK _ hatt,
    sameLines_of_idleLines hidle (transmitState_idleLines _ hidle), transmitState_microFrame _ s,
    fun hq hstarted htx a => ?_⟩
  · exact (List.append_assoc _ _ _).symm
  · rw [transmitState_rreg hP hq hstarted htx]

/-! ## The listening window of RECEIVE (R166) -/

/-- RECEIVE after its window: the enable line driven, the wait, the line released. -/
def listenedState (s : State) : State := ceLowState (waitFor .tRxListen (ceHighState s))

theorem listenedState_trace (s : State) :
    (listenedState s).trace = s.trace ++ [.ce true, .wait .tRxListen, .ce false] := by
  simp [listenedState, ceLowState, ceHighState]

theorem listenedState_idleLines (h : idleLines s) : idleLines (listenedState s) := by
  obtain ⟨hcsn, -, hatt, hsig⟩ := h
  exact ⟨hcsn, rfl, hatt, hsig⟩

theorem listenedState_microFrame (s : State) : microFrame s (listenedState s) :=
  ⟨⟨rfl, rfl, rfl, rfl⟩, ⟨rfl, rfl, rfl, rfl⟩, rfl, rfl, rfl⟩

/-- With nothing in flight no act of RADIO puts anything in flight (R53, R54). -/
theorem radioAct_air_idle (ce : Bool) (act : EnvAction) (h : r.air = .idle) : (radioAct P ce r act).air = .idle := by
  cases act with
  | acknowledged b => rwa [radioAct_idle h (by simp)]
  | maxRetries => rwa [radioAct_idle h (by simp)]
  | arrived p b =>
    simp only [radioAct]
    split
    · exact h
    · exact h

theorem foldl_radioAct_air_idle (ce : Bool) (acts : List EnvAction) :
    ∀ {r : Radio}, r.air = .idle → (acts.foldl (radioAct P ce) r).air = .idle := by
  induction acts with
  | nil => exact fun h => h
  | cons act acts ih => exact fun h => ih (radioAct_air_idle ce act h)

/-- The two roles exclude each other (R78): a transmitter does not listen, a receiver does. -/
theorem selectsTx_eq_false_of_selectsRx (h : selectsRx P r = true) : selectsTx P r = false := by
  refine Bool.eq_false_iff.2 fun htx => ?_
  have hdeaf := mayListen_of_selectsTx htx
  rw [mayListen_of_selectsRx h] at hdeaf
  cases hdeaf

/-- A receiver that is started only listens at `Ce(1)` (R54): the enable line itself changes nothing of it. -/
theorem radioEnable_receiver (n : Nat) (hstarted : chipStarted P r = true) (hrx : selectsRx P r = true)
    (hmax : r.maxRt = false) (hair : r.air = .idle) : radioEnable P n r = r := by
  rw [radioEnable_of_work n (hasWork_eq.2 ⟨hstarted, .inl hrx⟩) hmax hair, selectsTx_eq_false_of_selectsRx hrx]
  rfl

/-- Whatever arrives in the window, a started receiver is quiet after it and its register map is as before (R54). -/
theorem listenedState_receiver (hstarted : chipStarted s.cfg s.radio = true) (hrx : selectsRx s.cfg s.radio = true)
    (hmax : s.radio.maxRt = false) (hair : s.radio.air = .idle) :
    quiet (listenedState s) ∧ (listenedState s).radio.rreg = s.radio.rreg := by
  have henable := radioEnable_receiver s.envDraws hstarted hrx hmax hair
  simp only [quiet, listenedState, ceLowState, ceHighState, emit_radio, waitFor_radio, emit_ce, foldl_radioAct_rreg,
    henable, and_true, true_and]
  exact foldl_radioAct_air_idle _ _ (foldl_radioAct_air_idle _ _ (foldl_radioAct_air_idle _ _ hair))

/-! ## RECEIVE (R166) -/

/-- RECEIVE is its window, then what R_RX_PAYLOAD and STATUS_RESET make of the state. -/
theorem exec_receive_of_parts (hidle : idleLines s) (hdone : s.initDone = true) (hrole : s.cfg.role = .rx)
    (hread : exec .rRxPayload (listenedState s) = .next u) (hreset : exec .statusReset u = .next t) :
    exec .receive s = .next t := by
  obtain ⟨hcsn, hce, -, -⟩ := hidle
  have hhigh : ceHigh s = .ok (ceHighState s) := ceHigh_eq_ok.2 ⟨hce, hcsn, rfl⟩
  have hlow : ceLow (waitFor .tRxListen (ceHighState s)) = .ok (listenedState s) := ceLow_eq_ok.2 ⟨rfl, rfl⟩
  refine outcomeOfResult_eq_next.2 ?_
  rw [receive, if_neg (by simp [hdone]), if_neg (by simp [hrole])]
  exact bind_eq_ok.2 ⟨_, hhigh, bind_eq_ok.2 ⟨_, hlow, bind_eq_ok.2
    ⟨_, outcomeOfResult_eq_next.1 hread, outcomeOfResult_eq_next.1 hreset⟩⟩⟩

/-- Settles O46: after its window RECEIVE is an R_RX_PAYLOAD (O45) and a STATUS_RESET (O36). -/
theorem receiveListensReadsAndResets : Obligations.ReceiveListensReadsAndResets := by
  intro s hP hidle hdone hrole
  have ⟨hcsn, _, hatt, _⟩ := listenedState_idleLines hidle
  obtain ⟨u, r0, q, hread, hrxp, -, htrace, hcf, htf, hst, hret, hpad, ⟨hcsn', -, hatt', -⟩,
      ⟨hout, hinit, hphase, hseq⟩, ⟨hcfg, hirq, hin⟩, hmem⟩ :=
    rRxPayloadTakesTheHead (listenedState s) hP hcsn hatt
  obtain ⟨t, got, hreset, hgot, htrace', hret', hpad', -, ⟨⟨hcf', htf', hst', hrxp'⟩, ⟨hout', hinit', hphase', hseq'⟩,
      hcfg', hirq', hin'⟩, hmem'⟩ :=
    statusResetIsOneWrite u (hcfg ▸ hP) (hcsn'.trans hcsn) (hatt'.trans hatt)
  have hrun := exec_receive_of_parts hidle hdone hrole hread hreset
  refine ⟨t, r0, q, got, _, hrun, hrxp'.trans (hrxp hrole), hgot, ?_, rfl, ?_, hcf'.trans hcf, htf'.trans htf,
    hst'.trans hst, hret'.trans hret, hpad'.trans hpad,
    sameLines_of_idleLines hidle (exec_keeps_idleLines rfl hrun hidle),
    ⟨hout'.trans hout, hinit'.trans hinit, hphase'.trans hphase, hseq'.trans hseq⟩,
    ⟨hcfg'.trans hcfg, hirq'.trans hirq, hin'.trans hin⟩, fun hstarted hrx hmax hair a => ?_⟩
  · rw [htrace', htrace, listenedState_trace, hcfg]
    simp only [List.append_assoc]
    rfl
  · have hsent : [s.cfg.wOpcode ||| s.cfg.regStatus, s.cfg.statusIrqMask].length = got.length := hgot.symm
    rw [List.length_append, List.length_append, xactEvents_length (by rfl), xactEvents_length hsent]
    rfl
  · obtain ⟨hquiet, hrreg⟩ := listenedState_receiver hstarted hrx hmax hair
    obtain ⟨hkept, -, -⟩ := hmem hquiet
    rw [hmem', hkept, hrreg]

end Sys2Proof.TxRx
end

section
/-! SUPPORT. The loop (spec/45_bridge_loop.md R200 to R212): PACK, the waits, FAULTCHECK by RADIO's failure flag, RUN as
the INIT it performs, and two steps of the fixed program as two CYCLEs. -/

namespace Sys2Proof.Loop

open Sys2Proof.Machine Sys2Proof.Safety Sys2Proof.Invariants Sys2Proof.Device Sys2Proof.Encoding Sys2Proof.Micro

variable {s t : State} {P : Config} {p : Bytes5} {v : Byte} {es : List Event}

/-! ## The fixed program (R208, R262) -/

theorem step_noInput (hin : s.inputs = []) : step s = exec (programNext s.seq) s := by
  have hfetch : fetch s = (.run (programNext s.seq), s) := by simp only [fetch, hin]
  simp only [step, hfetch]

/-- Settles O8: the act that stands next in the program. -/
theorem stepRunsTheFixedProgram : Obligations.StepRunsTheFixedProgram := by
  refine fun s hin => ⟨fun hseq => ?_, fun hseq => ?_⟩
  · rw [step_noInput hin, hseq, programNext]
  · rw [step_noInput hin, hseq, programNext]

/-! ## The waits (R101, R206) -/

/-- All of a wait is its one event. -/
theorem waitFor_frame (T : TimeParam) (s : State) :
    (waitFor T s).trace = s.trace ++ [.wait T] ∧ (waitFor T s).ret = s.ret ∧ (waitFor T s).padK = s.padK ∧
      sameLines s (waitFor T s) ∧ microFrame s (waitFor T s) ∧ sameMemory s (waitFor T s) :=
  ⟨waitFor_trace T s, waitFor_ret T s, waitFor_padK T s, ⟨rfl, rfl, rfl, rfl⟩, emit_microFrame _ (microFrame_refl s),
    emit_sameMemory _ rfl⟩

/-- Settles O19: WAIT_CYCLE is the wait of one of the parameters. -/
theorem waitsOnlyRecord : Obligations.WaitsOnlyRecord :=
  fun s => ⟨fun T => ⟨waitFor T s, rfl, waitFor_frame T s⟩, ⟨waitFor .tCycle s, rfl, waitFor_frame .tCycle s⟩⟩

/-! ## PACK (R201, R202) -/

theorem exec_pack {b : Half} {lx ly : Byte} (hb : s.cf.buttons = some b) (hlx : s.cf.lx = some lx)
    (hly : s.cf.ly = some ly) : exec .pack s = .next { s with tf := some (frameOf b lx ly) } :=
  outcomeOfResult_eq_next.2 (packFrame_eq_ok.2 ⟨b, lx, ly, hb, hlx, hly, rfl⟩)

/-- R232: one register without a value is enough. -/
theorem exec_pack_uninit (h : s.cf.buttons = none ∨ s.cf.lx = none ∨ s.cf.ly = none) :
    exec .pack s = .refused .uninitRead := by
  change outcomeOfResult (packFrame s) = .refused .uninitRead
  unfold packFrame
  split
  next hb hlx hly => simp [hb, hlx, hly] at h
  next => rfl

theorem lowByte_toNat (b : Half) : (lowByte b).toNat = b.toNat % 256 := by
  simp [lowByte]

theorem highByte_toNat (b : Half) : (highByte b).toNat = b.toNat / 256 := by
  have hlt : b.toNat / 256 < 256 := Nat.div_lt_of_lt_mul b.isLt
  simp [highByte, Nat.shiftRight_eq_div_pow, Nat.mod_eq_of_lt hlt]

/-- Settles O48: `frameOf` is the frame, its first two bytes the halves of the buttons. -/
theorem packBuildsTheTelemetryFrame : Obligations.PackBuildsTheTelemetryFrame := by
  refine fun s => ⟨fun b lx ly hb hlx hly => ?_, exec_pack_uninit⟩
  exact ⟨frameOf b lx ly, exec_pack hb hlx hly, lowByte_toNat b, highByte_toNat b, rfl, rfl, rfl⟩

/-- Settles O49: PACK at the source's values. -/
theorem packBoundaryFrame : Obligations.PackBoundaryFrame :=
  fun _ hb hlx hly => exec_pack hb hlx hly

/-! ## FAULTCHECK (R203, R204, R244) -/

/-- Settles O50: the byte sampled has RADIO's flags in their bits (R50), and the one bit decides the branch. -/
theorem faultcheckSamplesAndRecovers : Obligations.FaultcheckSamplesAndRecovers := by
  intro s hP hidle hdone
  obtain ⟨r, hsampled, hflags⟩ := sampledStatus_eq hP
  obtain ⟨hbit, -, -, -⟩ := statusValue_spec hP r (answerAt s 1)
  obtain ⟨t, r0, got, hrun, hst, hgot, hclear, hset, hframe⟩ := faultcheck_of_sample hP hidle hdone hsampled
  refine ⟨t, r0, statusValue s.cfg r (answerAt s 1), got, hrun, hst, hgot, fun hq => ?_, hclear, hset, hframe⟩
  obtain ⟨hmaxRt, -, -⟩ := hflags hq
  rw [hbit, hmaxRt]

/-! ## RUN (R208, R262) -/

/-- RUN up to its loop is the INIT of the phase it sets. -/
theorem exec_run_of_init (hrole : s.cfg.role = .tx) (hinit : exec .init { s with phase := .init } = .next t) :
    exec .run s = .next { t with seq := .loop } := by
  refine outcomeOfResult_eq_next.2 ?_
  rw [runProgram, if_neg (by simp [hrole])]
  exact bind_eq_ok.2 ⟨t, outcomeOfResult_eq_next.1 hinit, rfl⟩

/-- Settles O54: the trace and the frame of INIT (O40) and what it makes of RADIO (O41), in the phase RUN sets. At
reset the role is the transmitter's (log 1). -/
theorem runInitialisesAndEntersTheLoop : Obligations.RunInitialisesAndEntersTheLoop := by
  refine ⟨?_, ?_⟩
  · rintro s hP ⟨hidle, -, hrole⟩ hdone
    obtain ⟨t, es, hinit, htrace, hlen, -, -, hdone', hout, hphase, -, hret, hpad, hlines, hdata, hfixed⟩ :=
      initWritesInOrder { s with phase := .init } hP hidle hdone
    refine ⟨{ t with seq := .loop }, es, exec_run_of_init hrole hinit, hphase, rfl, hdone', htrace, hlen, hout, hret,
      hpad, hlines, hdata, hfixed, fun hair => ?_⟩
    obtain ⟨t', hinit', hheld, hother, -⟩ := initConfiguresTheRadio { s with phase := .init } hP hidle hdone hair
    cases hinit.symm.trans hinit'
    exact ⟨hheld, hother⟩
  · obtain ⟨t, es, hinit, htrace, hlen, -, -, hdone', -, hphase, -⟩ :=
      initWritesInOrder { State.reset with phase := .init } pGK_wf ⟨rfl, rfl, rfl, rfl⟩ rfl
    refine ⟨{ t with seq := .loop }, (step_noInput rfl).trans (exec_run_of_init rfl hinit), hphase, rfl, hdone', ?_⟩
    change t.trace.length = 77
    rw [htrace]
    exact hlen

/-! ## Two passes of the loop (R207, R209) -/

theorem pollBrackets_cycle {received : List Byte} (h : CycleEvents P received p v es)
    (h9 : received.length = 9) (fs : List Event) : pollBrackets none (es ++ fs) = received :: pollBrackets none fs := by
  obtain ⟨sent, checked, hsent, hchecked, rfl⟩ := h
  simp only [List.append_assoc]
  rw [pollBrackets_poll h9, hsent.pollBrackets_append, hchecked.pollBrackets_append]
  rfl

theorem radioBrackets_cycle {received : List Byte} (h : CycleEvents P received p v es) (fs : List Event) :
    radioBrackets none (es ++ fs) =
      [P.cmdFlushTx] :: (writeFirst P P.regTxPayload :: p.toList) :: [P.regStatus, P.radioNop] ::
        ((if v &&& P.statusMaxRtMask = 0#8 then [] else [[P.wOpcode ||| P.regStatus, P.statusIrqMask]]) ++
          radioBrackets none fs) := by
  obtain ⟨sent, checked, hsent, hchecked, rfl⟩ := h
  simp only [List.append_assoc]
  rw [radioBrackets_poll, hsent.radioBrackets_append, hchecked.radioBrackets_append]
  rfl

/-- The payload writes among the radio brackets of a trace (R74). -/
abbrev payloadWrites (P : Config) (es : List Event) : List (List Byte) :=
  (radioBrackets none es).filter fun sent => sent.head? == some (P.wOpcode ||| P.regTxPayload)

/-- R5: no other transaction of a CYCLE begins with the byte of a payload write. -/
theorem firsts_ne_payloadWrite (hP : P.wf) :
    P.cmdFlushTx ≠ P.wOpcode ||| P.regTxPayload ∧ P.regStatus ≠ P.wOpcode ||| P.regTxPayload ∧
      P.wOpcode ||| P.regStatus ≠ P.wOpcode ||| P.regTxPayload := by
  obtain ⟨-, -, -, ⟨hdistinct, hmap⟩, -⟩ := hP
  obtain ⟨hread, hwrite⟩ := hmap P.regStatus (by simp [Config.mapRegisters])
  simp only [Config.commandBytes, List.nodup_cons, List.mem_cons, not_or] at hdistinct hread hwrite
  obtain ⟨⟨hflush, -⟩, -⟩ := hdistinct
  obtain ⟨-, hread, -⟩ := hread
  obtain ⟨-, hwrite, -⟩ := hwrite
  exact ⟨hflush, hread, hwrite⟩

/-- A CYCLE writes one payload, whatever it samples. -/
theorem payloadWrites_cycle {received : List Byte} (h : CycleEvents P received p v es) (hP : P.wf) (fs : List Event) :
    payloadWrites P (es ++ fs) = ((P.wOpcode ||| P.regTxPayload) :: p.toList) :: payloadWrites P fs := by
  obtain ⟨hflush, hread, hreset⟩ := firsts_ne_payloadWrite hP
  rw [payloadWrites, radioBrackets_cycle h]
  split
  next => simp [writeFirst, hflush, hread]
  next => simp [writeFirst, hflush, hread, hreset]

/-- R207: from every ready state a CYCLE forwards the frame of its own poll, and takes no input. -/
theorem exec_cycle_events (hP : s.cfg.wf) (hready : readyTx s) :
    ∃ t v es, exec .cycle s = .next t ∧ t.trace = s.trace ++ es ∧
      CycleEvents s.cfg (answersFrom s 9) (polledFrame s) v es ∧ sameFixed s t := by
  have ⟨_, hdone, _⟩ := hready
  obtain ⟨-, hinit, -, -, hcfg, hirq, hin⟩ := checkingState_frame s
  obtain ⟨sent, htrace, hsent⟩ := checkingState_trace hready
  obtain ⟨t, v, checked, hcheck, -, htrace', hchecked, -, -, -, -, -, -, -, -, -, -, ⟨hcfg', hirq', hin'⟩, -⟩ :=
    faultcheck_events (by rw [hcfg]; exact hP) (checkingState_idleLines hready) (hinit.trans hdone)
  rw [hcfg] at hchecked
  refine ⟨{ waitCycle t with phase := .polling }, v, _, exec_cycle_of_check hP hready hcheck, ?_,
    ⟨sent, checked, hsent, hchecked, rfl⟩, hcfg'.trans hcfg, hirq'.trans hirq, hin'.trans hin⟩
  change t.trace ++ [.wait .tCycle] = _
  rw [htrace', htrace]
  simp only [List.append_assoc]

/-- The block stands before a CYCLE of its loop: ready to transmit, no request pending. -/
structure BeforeCycle (s : State) : Prop where
  wf : s.cfg.wf
  ready : readyTx s
  loop : s.seq = .loop
  noInput : s.inputs = []

/-- One pass of the loop is one CYCLE, and the block stands before the next (R209). -/
theorem BeforeCycle.step_eq (h : BeforeCycle s) :
    ∃ t v es, step s = .next t ∧ t.trace = s.trace ++ es ∧ CycleEvents s.cfg (answersFrom s 9) (polledFrame s) v es ∧
      t.cfg = s.cfg ∧ BeforeCycle t := by
  obtain ⟨hP, hready, hloop, hin⟩ := h
  obtain ⟨t, v, es, hrun, htrace, hevents, hcfg, -, hin'⟩ := exec_cycle_events hP hready
  obtain ⟨-, hcycle⟩ := stepRunsTheFixedProgram s hin
  obtain ⟨-, hkeeps⟩ := stepKeepsTheLinesIdle
  have hstep : step s = .next t := (hcycle hloop).trans hrun
  obtain ⟨hP', hready', hloop'⟩ := hkeeps s t hP hready hloop (by simp [hin]) hstep
  exact ⟨t, v, es, hstep, htrace, hevents, hcfg, hP', hready', hloop', hin'.trans hin⟩

/-- Settles O53: the events of the two passes, read one after the other. -/
theorem twoCyclesSendTwoFramesInOrder : Obligations.TwoCyclesSendTwoFramesInOrder := by
  intro s hP hready hloop hin
  obtain ⟨t, v, es, hstep, htrace, hevents, hcfg, hbefore⟩ := BeforeCycle.step_eq ⟨hP, hready, hloop, hin⟩
  obtain ⟨u, w, fs, hstep', htrace', hevents', -, ⟨-, hready', hloop', hin'⟩⟩ := hbefore.step_eq
  rw [hcfg] at hevents'
  refine ⟨t, u, es ++ fs, answerAt s 0, answerAt s 1, answerAt s 2, answerAt s 3, answerAt s 4, answerAt s 5,
    answerAt s 6, answerAt s 7, answerAt s 8, answerAt t 0, answerAt t 1, answerAt t 2, answerAt t 3, answerAt t 4,
    answerAt t 5, answerAt t 6, answerAt t 7, answerAt t 8, hstep, hstep', ?_, ?_, ?_, hready', hloop', hin'⟩
  · rw [htrace', htrace, List.append_assoc]
  · rw [pollBrackets_cycle hevents rfl, hevents'.pollBrackets_eq rfl]
    rfl
  · have hsecond := payloadWrites_cycle hevents' hP []
    rw [List.append_nil] at hsecond
    change payloadWrites s.cfg (es ++ fs) = _
    rw [payloadWrites_cycle hevents hP, hsecond]
    rfl

end Sys2Proof.Loop
end

section
/-! SUPPORT. Where the operations stop (spec/60_exceptions.md R233 to R240): each guard as an equation, in the order of the
model's files, and the statements about faults and refusals that follow from them. -/

namespace Sys2Proof.Stops

open Sys2Proof.Machine

variable {s : State} {tx : Byte} {p : List Byte}

/-! ## XFER without exactly one device selected (R100, R233, R234) -/

theorem xfer_busContention (hcsn : s.csn = false) (hatt : s.att = true) :
    xfer tx s = .error (.fault .busContention) := by
  rw [xfer, if_pos (by simp [hcsn, hatt])]

theorem xfer_noTarget (hcsn : s.csn = true) (hatt : s.att = false) : xfer tx s = .error (.fault .noTarget) := by
  rw [xfer, if_neg (by simp [hcsn]), if_pos (by simp [hcsn, hatt])]

/-- An XFER that stops as an exchange stops as an instruction, with the same fault. -/
theorem exec_xfer_fault {f : Fault} (h : xfer tx s = .error (.fault f)) : exec (.xfer tx) s = .fault f := by
  change execXfer tx s = .fault f
  rw [execXfer, h]
  rfl

/-- Settles O18: the two guards of XFER. -/
theorem xferFaultsWithoutOneTarget : Obligations.XferFaultsWithoutOneTarget :=
  fun _ _ => ⟨fun hcsn hatt => exec_xfer_fault (xfer_busContention hcsn hatt),
    fun hcsn hatt => exec_xfer_fault (xfer_noTarget hcsn hatt)⟩

/-! ## The lines outside their bracket (R102 to R107, R235) -/

theorem csnEnable_busContention (hatt : s.att = true) : csnEnable s = .error (.fault .busContention) := by
  rw [csnEnable, if_pos hatt]

theorem csnEnable_selectNesting (hatt : s.att = false) (hcsn : s.csn = false) :
    csnEnable s = .error (.fault .selectNesting) := by
  rw [csnEnable, if_neg (by simp [hatt]), if_pos (by simp [hcsn])]

theorem csnDisable_selectNesting (hcsn : s.csn = true) : csnDisable s = .error (.fault .selectNesting) := by
  rw [csnDisable, if_pos hcsn]

theorem ceHigh_selectNesting (h : s.ce = true ∨ s.csn = false) : ceHigh s = .error (.fault .selectNesting) := by
  rw [ceHigh]
  by_cases hce : s.ce = true
  · rw [if_pos hce]
  · rw [if_neg hce, if_pos (by simp [h.resolve_left hce])]

theorem ceLow_selectNesting (hce : s.ce = false) : ceLow s = .error (.fault .selectNesting) := by
  rw [ceLow, if_pos (by simp [hce])]

theorem attAssert_busContention (hcsn : s.csn = false) : attAssert s = .error (.fault .busContention) := by
  rw [attAssert, if_pos (by simp [hcsn])]

theorem attAssert_selectNesting (hcsn : s.csn = true) (hatt : s.att = true) :
    attAssert s = .error (.fault .selectNesting) := by
  rw [attAssert, if_neg (by simp [hcsn]), if_pos hatt]

theorem attRelease_selectNesting (hatt : s.att = false) : attRelease s = .error (.fault .selectNesting) := by
  rw [attRelease, if_pos (by simp [hatt])]

/-- Settles O29: the guards of the line operations, contention before nesting (R102, R106). -/
theorem lineOperationsFaultOutsideTheirBracket : Obligations.LineOperationsFaultOutsideTheirBracket :=
  fun _ => ⟨fun hatt => congrArg outcomeOfResult (csnEnable_busContention hatt),
    fun hatt hcsn => congrArg outcomeOfResult (csnEnable_selectNesting hatt hcsn),
    fun hcsn => congrArg outcomeOfResult (csnDisable_selectNesting hcsn),
    fun h => congrArg outcomeOfResult (ceHigh_selectNesting h),
    fun hce => congrArg outcomeOfResult (ceLow_selectNesting hce),
    fun hcsn => congrArg outcomeOfResult (attAssert_busContention hcsn),
    fun hcsn hatt => congrArg outcomeOfResult (attAssert_selectNesting hcsn hatt),
    fun hatt => congrArg outcomeOfResult (attRelease_selectNesting hatt)⟩

/-! ## Use before INIT (R239) -/

theorem transmit_notInitialised (hdone : s.initDone = false) : transmit p s = .error (.refuse .notInitialised) := by
  rw [transmit, if_pos (by simp [hdone])]

theorem receive_notInitialised (hdone : s.initDone = false) : receive s = .error (.refuse .notInitialised) := by
  rw [receive, if_pos (by simp [hdone])]

theorem faultcheck_notInitialised (hdone : s.initDone = false) : faultcheck s = .error (.refuse .notInitialised) := by
  rw [faultcheck, if_pos (by simp [hdone])]

theorem cycle_notInitialised (hdone : s.initDone = false) : cycle s = .error (.refuse .notInitialised) := by
  rw [cycle, if_pos (by simp [hdone])]

/-! ## The other role (R240) -/

theorem transmit_roleMismatch (hdone : s.initDone = true) (hrole : s.cfg.role ≠ .tx) :
    transmit p s = .error (.refuse .roleMismatch) := by
  rw [transmit, if_neg (by simp [hdone]), if_pos hrole]

theorem receive_roleMismatch (hdone : s.initDone = true) (hrole : s.cfg.role ≠ .rx) :
    receive s = .error (.refuse .roleMismatch) := by
  rw [receive, if_neg (by simp [hdone]), if_pos hrole]

theorem cycle_roleMismatch (hdone : s.initDone = true) (hrole : s.cfg.role ≠ .tx) :
    cycle s = .error (.refuse .roleMismatch) := by
  rw [cycle, if_neg (by simp [hdone]), if_pos hrole]

theorem runProgram_roleMismatch (hrole : s.cfg.role ≠ .tx) : runProgram s = .error (.refuse .roleMismatch) := by
  rw [runProgram, if_pos hrole]

/-! ## INIT a second time (R238) -/

theorem initRadio_reinit (hdone : s.initDone = true) : initRadio s = .error (.refuse .reinit) := by
  rw [initRadio, if_pos hdone]

/-- RUN begins with INIT, in the phase it sets (R208). -/
theorem runProgram_reinit (hrole : s.cfg.role = .tx) (hdone : s.initDone = true) :
    runProgram s = .error (.refuse .reinit) := by
  have hinit : initRadio { s with phase := .init } = .error (.refuse .reinit) := initRadio_reinit hdone
  rw [runProgram, if_neg (by simp [hrole]), hinit, bind_error]

/-! ## A payload of another width (R161, R162, R236) -/

theorem wTxPayload_lenRange (hlen : p.length ≠ payloadWidth) : wTxPayload p s = .error (.refuse .lenRange) := by
  rw [wTxPayload, if_neg hlen]

theorem transmit_lenRange (hdone : s.initDone = true) (hrole : s.cfg.role = .tx) (hlen : p.length ≠ payloadWidth) :
    transmit p s = .error (.refuse .lenRange) := by
  rw [transmit, if_neg (by simp [hdone]), if_neg (by simp [hrole]), if_pos hlen]

/-- Settles O55: the refusals of the operations, in the order of their guards: `init_done`, the role, the width. -/
theorem operationsRefuseByRule : Obligations.OperationsRefuseByRule := by
  intro p s
  refine ⟨fun hdone => congrArg outcomeOfResult (initRadio_reinit hdone),
    fun hlen => congrArg outcomeOfResult (wTxPayload_lenRange hlen), fun hdone => ⟨?_, ?_, ?_, ?_⟩,
    fun hdone hrole => ?_, fun hrole => ?_, fun hdone hrole => ?_⟩
  · exact congrArg outcomeOfResult (transmit_notInitialised hdone)
  · exact congrArg outcomeOfResult (receive_notInitialised hdone)
  · exact congrArg outcomeOfResult (faultcheck_notInitialised hdone)
  · exact congrArg outcomeOfResult (cycle_notInitialised hdone)
  · have hother : s.cfg.role ≠ .tx := by simp [hrole]
    exact ⟨congrArg outcomeOfResult (transmit_roleMismatch hdone hother),
      congrArg outcomeOfResult (cycle_roleMismatch hdone hother)⟩
  · exact congrArg outcomeOfResult (runProgram_roleMismatch (by simp [hrole]))
  · exact ⟨congrArg outcomeOfResult (receive_roleMismatch hdone (by simp [hrole])),
      congrArg outcomeOfResult (runProgram_reinit hrole hdone),
      fun hlen => congrArg outcomeOfResult (transmit_lenRange hdone hrole hlen)⟩

end Sys2Proof.Stops
end

section
/-! SUPPORT. Reset between operations (spec/70_reset_and_hazards.md R260, R261) and the least time of one pass of the loop
(R285): what the waits of a transaction, a poll, TRANSMIT, FAULTCHECK and CYCLE sum to. -/

namespace Sys2Proof.Timing

open Sys2Proof.Machine Sys2Proof.Safety Sys2Proof.Device Sys2Proof.Encoding

variable {s : State} {P : Config} {p : Bytes5} {v : Byte} {es : List Event}

/-! ## Reset (R260, R261) -/

/-- The reset line is taken before the program's next act, and its input is used up. -/
theorem step_resetInput {rest : List Input} (hin : s.inputs = .reset :: rest) :
    step s = .next (resetBlock { s with inputs := rest }) := by
  have hfetch : fetch s = (.reset, { s with inputs := rest }) := by simp only [fetch, hin]
  simp only [step, hfetch]

/-- R261: with no transaction open the reset line leaves RADIO alone. -/
theorem resetBlock_radio_of_csn (hcsn : s.csn = true) : (resetBlock s).radio = s.radio :=
  if_pos hcsn

/-- Settles O3: the block's components are those of the reset state (R30), the devices' and the fixed ones the old. -/
theorem resetInputResetsOnlyTheBlock : Obligations.ResetInputResetsOnlyTheBlock := by
  intro s rest hin
  obtain ⟨hcsn, hce, hatt, hsig, hcf, htf, hst, hrxp, hout, hdone, hphase, htrace⟩ :=
    Invariants.resetValuesOfTheBlock
  exact ⟨_, step_resetInput hin, ⟨hcsn, hce, hatt, hsig⟩, hcf, htf, hst, hrxp, hout, hdone, hphase, rfl, htrace,
    rfl, rfl, rfl, rfl, resetBlock_radio_of_csn (s := { s with inputs := rest })⟩

/-! ## The waits of one CYCLE (R285) -/

/-- One settling wait for each byte of a transaction (R120). -/
theorem waitTime_xact {sent received : List Byte} (h : sent.length = received.length) :
    waitTime P (xactEvents sent received) = sent.length * P.durations.settle := by
  rw [xactEvents, waitTime_append, waitTime, waitTime_exchange P .tSettle _ _ h]
  rfl

/-- One settling wait for each of the nine bytes of a poll (R180). -/
theorem waitTime_poll {received : List Byte} (h9 : received.length = 9) :
    waitTime P (pollEvents received) = 9 * P.durations.padSettle := by
  rw [pollEvents, waitTime_append, waitTime, waitTime_exchange P .tPadSettle _ _ (by rw [h9]; rfl)]
  rfl

theorem waitTime_pulse (P : Config) :
    waitTime P pulseEvents = P.durations.txPre + P.durations.cePulse + P.durations.txPost := by
  simp [pulseEvents, waitTime, Config.duration, Nat.add_assoc]

/-- R162: one byte of flush, six of load, and the enable pulse. -/
theorem waitTime_transmit (h : TransmitEvents P p es) :
    waitTime P es =
      7 * P.durations.settle + (P.durations.txPre + P.durations.cePulse + P.durations.txPost) := by
  obtain ⟨r0, got, hgot, rfl⟩ := h
  have hload : (writeFirst P P.regTxPayload :: p.toList).length = got.length := by rw [hgot]; rfl
  rw [waitTime_append, waitTime_append, waitTime_xact (by rfl), waitTime_xact hload, waitTime_pulse, hload, hgot,
    List.length_singleton]
  omega

/-- R203, R204: two bytes of status read; two of status reset and the hold exactly if the bit is set. -/
theorem waitTime_check (h : CheckEvents P v es) :
    waitTime P es = 2 * P.durations.settle +
      if v &&& P.statusMaxRtMask = 0#8 then 0 else 2 * P.durations.settle + P.durations.faultHold := by
  obtain ⟨r0, got, hgot, rfl⟩ := h
  rw [waitTime_append, waitTime_xact (by rfl)]
  congr 1
  split
  next => rfl
  next =>
    rw [waitTime, waitTime_append, waitTime_xact (by rw [hgot]; rfl)]
    rfl

/-- R285: poll, TRANSMIT, FAULTCHECK and the wait, added up. -/
theorem waitTime_cycle {received : List Byte} (h : CycleEvents P received p v es) (h9 : received.length = 9) :
    waitTime P es =
      9 * P.durations.padSettle + 9 * P.durations.settle + P.durations.txPre + P.durations.cePulse +
        P.durations.txPost + P.durations.cycle +
        (if v &&& P.statusMaxRtMask = 0#8 then 0 else 2 * P.durations.settle + P.durations.faultHold) := by
  obtain ⟨sent, checked, hsent, hchecked, rfl⟩ := h
  have hwait : waitTime P [.wait .tCycle] = P.durations.cycle := rfl
  rw [waitTime_append, waitTime_append, waitTime_append, waitTime_poll h9, waitTime_transmit hsent,
    waitTime_check hchecked, hwait]
  omega

/-- Settles O52: the byte its FAULTCHECK samples is the one in `st` and the one that decides the events of the pass. -/
theorem cycleLeastTime : Obligations.CycleLeastTime := by
  intro s hP hready
  have ⟨_, hdone, _⟩ := hready
  obtain ⟨-, hinit, -, -, hcfg, -⟩ := checkingState_frame s
  obtain ⟨sent, htrace, hsent⟩ := checkingState_trace hready
  obtain ⟨t, v, checked, hcheck, hst, htrace', hchecked, -⟩ :=
    faultcheck_events (by rw [hcfg]; exact hP) (checkingState_idleLines hready) (hinit.trans hdone)
  rw [hcfg] at hchecked
  have hevents : CycleEvents s.cfg (answersFrom s 9) (polledFrame s) v _ := ⟨sent, checked, hsent, hchecked, rfl⟩
  refine ⟨{ waitCycle t with phase := .polling }, _, v, exec_cycle_of_check hP hready hcheck, ?_, hst,
    waitTime_cycle hevents rfl⟩
  change t.trace ++ [.wait .tCycle] = _
  rw [htrace', htrace]
  simp only [List.append_assoc]

end Sys2Proof.Timing
end
